-- ==== Sys2Proof/Word.lean ====
section
/-! DEFINITION. The widths the spec fixes (00_scope.md R2, 10_state.md R20, 20_memory.md R51, 30_encoding.md R82 to R85). -/

namespace Sys2Proof

/-- A word: a general register, `HI`, `LO`, `pc`, a floating-point register, an address or an instruction (R2, R51). -/
abbrev Word := BitVec 32

/-- A byte of memory (20_memory.md R50, R51). -/
abbrev Byte := BitVec 8

/-- A 5-bit register field: one of 32 general or floating-point registers (10_state.md R20, R27). -/
abbrev Reg := BitVec 5

/-- The 5-bit `sa` field, a shift amount 0 to 31 (30_encoding.md R82, R99). -/
abbrev Shamt := BitVec 5

/-- The 16-bit `immediate` field of the I format (30_encoding.md R83). -/
abbrev Imm := BitVec 16

/-- The 26-bit `target` field of the J format (30_encoding.md R84). -/
abbrev Target := BitVec 26

end Sys2Proof
end

