-- ==== Sys2Proof/Machine/Flags.lean ====
section
/-! DEFINITION. Conditions computed by arithmetic. "The machine has no status flags and no condition codes"
(10_state.md R36): overflow is reported by an exception and comparisons write 0 or 1 to a general register, so this file
holds the two overflow conditions and the value a comparison writes, and State holds no flag. -/

namespace Sys2Proof.Machine

/-- Signed overflow of `add` and `addi` (40_rtype_alu.md R137): the mathematical sum is outside -2^31 to 2^31 - 1. -/
def addOverflows (a b : Word) : Bool :=
  let sum := a.toInt + b.toInt
  decide (sum < -2147483648 ∨ 2147483647 < sum)

/-- Signed overflow of `sub` (40_rtype_alu.md R137): the mathematical difference is outside -2^31 to 2^31 - 1. -/
def subOverflows (a b : Word) : Bool :=
  let diff := a.toInt - b.toInt
  decide (diff < -2147483648 ∨ 2147483647 < diff)

/-- What "set" writes: 1, and otherwise 0 (40_rtype_alu.md R128). -/
def setValue (c : Bool) : Word := if c then 1#32 else 0#32

end Sys2Proof.Machine
end

