-- ==== Sys2Proof/Config.lean ====
section
/-! DEFINITION. The implementation parameters of 00_scope.md R5 (plain data, in `Params`) and the free values of the
spec (opaque constants without a body: nothing is known of them). -/

namespace Sys2Proof

/-- `ENDIAN`: the byte order of data accesses and of fetch (20_memory.md R52). -/
inductive Endian where
  | big
  | little
deriving DecidableEq, Repr

/-- `CVT_W_ROUNDING`: how `cvt.w.s` rounds a fraction (47_cp1_float.md R206). -/
inductive CvtRounding where
  | nearestEven
  | towardZero
  | up
  | down
deriving DecidableEq, Repr

/-- `FP_NUMERICS`: which results the six computing floating-point instructions have (47_cp1_float.md R210, R212).
`ieee` is the default record (R210, R211); `conservative` is R212's domain, outside which the result is a draw;
`uninterpreted` is R210's record about which nothing is known. -/
inductive FpNumerics where
  | ieee
  | conservative
  | uninterpreted
deriving DecidableEq, Repr

/-- The two instructions `DIV_RESULT` speaks of (00_scope.md R5). -/
inductive DivOp where
  | div
  | divu
deriving DecidableEq, Repr

/-- The six functions of the record `FP_NUMERICS` (47_cp1_float.md R210). -/
inductive FpOp where
  | add
  | sub
  | mul
  | div
  | cvtSW
  | cvtWS (rounding : CvtRounding)
deriving DecidableEq, Repr

/-- A range of byte addresses: `size` addresses from `base` on. -/
structure Range where
  base : Nat
  size : Nat
deriving DecidableEq, Repr

/-- A set of byte addresses as a list of ranges (`MEM_ALLOC` and `TEXT` of 00_scope.md R5; log 27). -/
abbrev AddrSet := List Range

/-- The parameters of 00_scope.md R5 that are plain data. No instruction reads or writes them as operands; they are
fixed for a whole run (20_memory.md R52; log 1). -/
structure Params where
  /-- `BRANCH_DELAY`: the instruction after a branch or jump executes before the target (10_state.md R31, R32). -/
  branchDelay : Bool
  /-- `ENDIAN` (20_memory.md R53). -/
  endian : Endian
  /-- `MEM_ALLOC`, the addresses a launch may access (20_memory.md R60). -/
  memAlloc : AddrSet
  /-- `TEXT`, the addresses that hold the program, read-only (20_memory.md R68). -/
  text : AddrSet
  /-- `ENTRY`, the value of `pc` at launch (70_reset_and_hazards.md R250). -/
  entry : Word
  /-- `CP1_USABLE` (60_exceptions.md R231). -/
  cp1Usable : Bool
  /-- `STRICT_UNUSED_FIELDS` (30_encoding.md R101). -/
  strictUnused : Bool
  /-- `CVT_W_ROUNDING` (47_cp1_float.md R206). -/
  cvtRounding : CvtRounding
  /-- `FP_NUMERICS` (47_cp1_float.md R210). -/
  fpNumerics : FpNumerics
  /-- `LOAD_DELAY` (70_reset_and_hazards.md R256). -/
  loadDelay : Bool
deriving DecidableEq, Repr

/-- The parameters `State.reset` is launched with: the defaults of 00_scope.md R5; where R5 gives none (`ENDIAN`,
`MEM_ALLOC`, `TEXT`, `ENTRY`) the values of logs 3 to 6. DESIGN CHOICE. -/
def Params.default : Params where
  branchDelay := false
  endian := .big
  memAlloc := [⟨0, 4294967296⟩]
  text := [⟨0x00400000, 0x0FC00000⟩]
  entry := 0x00400000#32
  cp1Usable := true
  strictUnused := true
  cvtRounding := .nearestEven
  fpNumerics := .ieee
  loadDelay := false

/-- What a register of which the spec gives no launch value holds in `State.launch` (10_state.md R39, R40: never zero).
DESIGN CHOICE, unsafe (log 7). -/
def launchFill : Word := 0x10010000#32

/-- `DIV_RESULT`: `HI` and `LO` after a division whose result the spec leaves open (41_rtype_muldiv.md R142, R143;
93_implementation_defined.md U1, U2; log 12). A free value. -/
opaque Config.divResult : DivOp → Word → Word → Word × Word

/-- The bits a NaN produced by an arithmetic instruction is drawn from (47_cp1_float.md R211; U6; log 14). A free value. -/
opaque Config.nanDraw : FpOp → Word → Word → Word

/-- `cvt.w.s` of a NaN, an infinity or an out-of-range value (47_cp1_float.md R206; U8; log 15). A free value. -/
opaque Config.cvtDraw : CvtRounding → Word → Word

/-- The result outside the conservative domain (47_cp1_float.md R212; U7; log 16). A free value. -/
opaque Config.conservativeDraw : FpOp → Word → Word → Word

/-- The uninterpreted record `FP_NUMERICS` (47_cp1_float.md R210; log 13). A free value. -/
opaque Config.fpResult : FpOp → Word → Word → Word

end Sys2Proof
end

