-- ==== Sys2Proof/Syntax.lean ====
section
/-! DEFINITION. The 63 instructions of the spec (00_scope.md R3, `opcode_table.json`), one constructor per row, in the
table's order. Operands stand in the order the source prints them (30_encoding.md R103), each with the exact width of
its field, so a term can hold no out-of-range operand. `mfc1` and `mtc1` name the fields of 30_encoding.md R94. -/

namespace Sys2Proof

inductive Instr where
  /-- `sll rd, rt, sa` (R130) -/
  | sll (rd rt : Reg) (sa : Shamt)
  /-- `srl rd, rt, sa` (R131) -/
  | srl (rd rt : Reg) (sa : Shamt)
  /-- `sra rd, rt, sa` (R132) -/
  | sra (rd rt : Reg) (sa : Shamt)
  /-- `sllv rd, rt, rs` (R133) -/
  | sllv (rd rt rs : Reg)
  /-- `srlv rd, rt, rs` (R134) -/
  | srlv (rd rt rs : Reg)
  /-- `srav rd, rt, rs` (R135) -/
  | srav (rd rt rs : Reg)
  /-- `jr rs` (R150) -/
  | jr (rs : Reg)
  /-- `jalr rd, rs` (R151) -/
  | jalr (rd rs : Reg)
  /-- `syscall` (R152) -/
  | syscall
  /-- `break` (R153) -/
  | breakpoint
  /-- `mfhi rd` (R144) -/
  | mfhi (rd : Reg)
  /-- `mthi rs` (R145) -/
  | mthi (rs : Reg)
  /-- `mflo rd` (R146) -/
  | mflo (rd : Reg)
  /-- `mtlo rs` (R147) -/
  | mtlo (rs : Reg)
  /-- `mult rs, rt` (R140) -/
  | mult (rs rt : Reg)
  /-- `multu rs, rt` (R141) -/
  | multu (rs rt : Reg)
  /-- `div rs, rt` (R142) -/
  | div (rs rt : Reg)
  /-- `divu rs, rt` (R143) -/
  | divu (rs rt : Reg)
  /-- `add rd, rs, rt` (R120) -/
  | add (rd rs rt : Reg)
  /-- `addu rd, rs, rt` (R121) -/
  | addu (rd rs rt : Reg)
  /-- `sub rd, rs, rt` (R122) -/
  | sub (rd rs rt : Reg)
  /-- `subu rd, rs, rt` (R123) -/
  | subu (rd rs rt : Reg)
  /-- `and rd, rs, rt` (R124) -/
  | and (rd rs rt : Reg)
  /-- `or rd, rs, rt` (R125) -/
  | or (rd rs rt : Reg)
  /-- `xor rd, rs, rt` (R126) -/
  | xor (rd rs rt : Reg)
  /-- `nor rd, rs, rt` (R127) -/
  | nor (rd rs rt : Reg)
  /-- `slt rd, rs, rt` (R128) -/
  | slt (rd rs rt : Reg)
  /-- `sltu rd, rs, rt` (R129) -/
  | sltu (rd rs rt : Reg)
  /-- `bltz rs, label` (R170) -/
  | bltz (rs : Reg) (imm : Imm)
  /-- `bgez rs, label` (R171) -/
  | bgez (rs : Reg) (imm : Imm)
  /-- `beq rs, rt, label` (R172) -/
  | beq (rs rt : Reg) (imm : Imm)
  /-- `bne rs, rt, label` (R173) -/
  | bne (rs rt : Reg) (imm : Imm)
  /-- `blez rs, label` (R174) -/
  | blez (rs : Reg) (imm : Imm)
  /-- `bgtz rs, label` (R175) -/
  | bgtz (rs : Reg) (imm : Imm)
  /-- `addi rt, rs, immediate` (R160) -/
  | addi (rt rs : Reg) (imm : Imm)
  /-- `addiu rt, rs, immediate` (R161) -/
  | addiu (rt rs : Reg) (imm : Imm)
  /-- `slti rt, rs, immediate` (R162) -/
  | slti (rt rs : Reg) (imm : Imm)
  /-- `sltiu rt, rs, immediate` (R163) -/
  | sltiu (rt rs : Reg) (imm : Imm)
  /-- `andi rt, rs, immediate` (R164) -/
  | andi (rt rs : Reg) (imm : Imm)
  /-- `ori rt, rs, immediate` (R165) -/
  | ori (rt rs : Reg) (imm : Imm)
  /-- `xori rt, rs, immediate` (R166) -/
  | xori (rt rs : Reg) (imm : Imm)
  /-- `lui rt, immediate` (R167) -/
  | lui (rt : Reg) (imm : Imm)
  /-- `lb rt, immediate(rs)` (R180) -/
  | lb (rt : Reg) (imm : Imm) (rs : Reg)
  /-- `lh rt, immediate(rs)` (R181) -/
  | lh (rt : Reg) (imm : Imm) (rs : Reg)
  /-- `lw rt, immediate(rs)` (R182) -/
  | lw (rt : Reg) (imm : Imm) (rs : Reg)
  /-- `lbu rt, immediate(rs)` (R183) -/
  | lbu (rt : Reg) (imm : Imm) (rs : Reg)
  /-- `lhu rt, immediate(rs)` (R184) -/
  | lhu (rt : Reg) (imm : Imm) (rs : Reg)
  /-- `sb rt, immediate(rs)` (R185) -/
  | sb (rt : Reg) (imm : Imm) (rs : Reg)
  /-- `sh rt, immediate(rs)` (R186) -/
  | sh (rt : Reg) (imm : Imm) (rs : Reg)
  /-- `sw rt, immediate(rs)` (R187) -/
  | sw (rt : Reg) (imm : Imm) (rs : Reg)
  /-- `lwc1 rt, immediate(rs)` (R188) -/
  | lwc1 (ft : Reg) (imm : Imm) (rs : Reg)
  /-- `swc1 rt, immediate(rs)` (R189) -/
  | swc1 (ft : Reg) (imm : Imm) (rs : Reg)
  /-- `j label` (R195) -/
  | j (target : Target)
  /-- `jal label` (R196) -/
  | jal (target : Target)
  /-- `add.s fd, fs, ft` (R200) -/
  | addS (fd fs ft : Reg)
  /-- `sub.s fd, fs, ft` (R201) -/
  | subS (fd fs ft : Reg)
  /-- `mul.s fd, fs, ft` (R202) -/
  | mulS (fd fs ft : Reg)
  /-- `div.s fd, fs, ft` (R203) -/
  | divS (fd fs ft : Reg)
  /-- `mov.s fd, fs` (R204) -/
  | movS (fd fs : Reg)
  /-- `cvt.s.w fd, fs` (R205) -/
  | cvtSW (fd fs : Reg)
  /-- `cvt.w.s fd, fs` (R206) -/
  | cvtWS (fd fs : Reg)
  /-- `mfc1 rd, fs` (R207) -/
  | mfc1 (rt fs : Reg)
  /-- `mtc1 rs, fd` (R208) -/
  | mtc1 (rt fs : Reg)
deriving DecidableEq, Repr

end Sys2Proof
end

