-- ==== Sys2Proof/WellFormed.lean ====
section
/-! DEFINITION. Which assembler operands can be coded (30_encoding.md R103, with R96, R97 and R99). A term of `Instr`
carries its operands at the exact width of their fields and so is always well formed; what can be ill formed is the
operand an assembler is asked to code. -/

namespace Sys2Proof

/-- An operand as assembler text gives it, before it is coded in a field (30_encoding.md R103). -/
inductive Operand where
  /-- `$n` or `$fn` -/
  | reg (n : Nat)
  /-- `sa` -/
  | shamt (n : Nat)
  /-- `immediate`, or the displacement of `immediate(rs)` -/
  | immediate (v : Int)
  /-- `label` of a branch at address `pc` -/
  | branchLabel (pc label : Word)
  /-- `label` of `j` or `jal` at address `pc` -/
  | jumpLabel (pc label : Word)
deriving DecidableEq, Repr

/-- A register number is one of 32 (10_state.md R20, R27). -/
def regInRange (n : Nat) : Bool := decide (n < 32)

/-- "a shift amount 0 to 31, coded in `sa`" (30_encoding.md R103, R99). -/
def shamtInRange (n : Nat) : Bool := decide (n < 32)

/-- "a 16-bit constant": the signed reading or the field value itself; the source prints both (log 32). -/
def immediateInRange (v : Int) : Bool := decide (-32768 ≤ v ∧ v ≤ 65535)

/-- The difference of `label` and the following address is a multiple of 4 in the reachable range (30_encoding.md R96). -/
def branchLabelInRange (pc label : Word) : Bool :=
  let d := (label - (pc + 4#32)).toInt
  decide (d % 4 = 0 ∧ -131072 ≤ d ∧ d ≤ 131068)

/-- `label` is word-aligned and in the 256 MiB region of the following address: "An assembler must refuse a label
outside the region" (30_encoding.md R97). -/
def jumpLabelInRange (pc label : Word) : Bool :=
  decide (label.extractLsb' 0 2 = 0#2 ∧ label.extractLsb' 28 4 = (pc + 4#32).extractLsb' 28 4)

/-- The operand can be coded in its field. -/
def Operand.wellFormed : Operand → Bool
  | .reg n => regInRange n
  | .shamt n => shamtInRange n
  | .immediate v => immediateInRange v
  | .branchLabel pc label => branchLabelInRange pc label
  | .jumpLabel pc label => jumpLabelInRange pc label

end Sys2Proof
end

