-- ==== Sys2Proof/Decode.lean ====
section
/-! DEFINITION. Decoding and encoding of instruction words (30_encoding.md R80 to R106), and the byte order that turns
memory bytes into words and back (20_memory.md R53, R54). -/

namespace Sys2Proof

/-! ## Fields of an instruction word (R82 to R85) -/

/-- `opcode`, bits 31:26. -/
def opcodeOf (w : Word) : BitVec 6 := w.extractLsb' 26 6
/-- `rs` (R, I formats) or `fmt` (coprocessor format), bits 25:21. -/
def rsOf (w : Word) : Reg := w.extractLsb' 21 5
/-- `rt` (R, I formats) or `ft` (coprocessor format), bits 20:16. -/
def rtOf (w : Word) : Reg := w.extractLsb' 16 5
/-- `rd` (R format) or `fs` (coprocessor format), bits 15:11. -/
def rdOf (w : Word) : Reg := w.extractLsb' 11 5
/-- `sa` (R format) or `fd` (coprocessor format), bits 10:6. -/
def saOf (w : Word) : Reg := w.extractLsb' 6 5
/-- `funct`, bits 5:0. -/
def functOf (w : Word) : BitVec 6 := w.extractLsb' 0 6
/-- `imm`, bits 15:0. -/
def immOf (w : Word) : Imm := w.extractLsb' 0 16
/-- `target`, bits 25:0. -/
def targetOf (w : Word) : Target := w.extractLsb' 0 26

/-! ## The opcode maps (R87, R89, R90, R93) -/

/-- Opcode `000000`: `funct` looked up in R87; `none` is one of the 36 unassigned codes of R88. -/
def decodeRType (w : Word) : Option Instr :=
  let rs := rsOf w
  let rt := rtOf w
  let rd := rdOf w
  let sa := saOf w
  let funct := functOf w
  if funct = 0x00#6 then some (.sll rd rt sa)
  else if funct = 0x02#6 then some (.srl rd rt sa)
  else if funct = 0x03#6 then some (.sra rd rt sa)
  else if funct = 0x04#6 then some (.sllv rd rt rs)
  else if funct = 0x06#6 then some (.srlv rd rt rs)
  else if funct = 0x07#6 then some (.srav rd rt rs)
  else if funct = 0x08#6 then some (.jr rs)
  else if funct = 0x09#6 then some (.jalr rd rs)
  else if funct = 0x0C#6 then some .syscall
  else if funct = 0x0D#6 then some .breakpoint
  else if funct = 0x10#6 then some (.mfhi rd)
  else if funct = 0x11#6 then some (.mthi rs)
  else if funct = 0x12#6 then some (.mflo rd)
  else if funct = 0x13#6 then some (.mtlo rs)
  else if funct = 0x18#6 then some (.mult rs rt)
  else if funct = 0x19#6 then some (.multu rs rt)
  else if funct = 0x1A#6 then some (.div rs rt)
  else if funct = 0x1B#6 then some (.divu rs rt)
  else if funct = 0x20#6 then some (.add rd rs rt)
  else if funct = 0x21#6 then some (.addu rd rs rt)
  else if funct = 0x22#6 then some (.sub rd rs rt)
  else if funct = 0x23#6 then some (.subu rd rs rt)
  else if funct = 0x24#6 then some (.and rd rs rt)
  else if funct = 0x25#6 then some (.or rd rs rt)
  else if funct = 0x26#6 then some (.xor rd rs rt)
  else if funct = 0x27#6 then some (.nor rd rs rt)
  else if funct = 0x2A#6 then some (.slt rd rs rt)
  else if funct = 0x2B#6 then some (.sltu rd rs rt)
  else none

/-- Opcode `010001`: the pair (`fmt`, `funct`) looked up in R93, with the register fields of R85 and, for `mfc1` and
`mtc1`, of R94. -/
def decodeCop1 (w : Word) : Option Instr :=
  let fmt := rsOf w
  let ft := rtOf w
  let fs := rdOf w
  let fd := saOf w
  let funct := functOf w
  if fmt = 0x10#5 then
    if funct = 0x00#6 then some (.addS fd fs ft)
    else if funct = 0x01#6 then some (.subS fd fs ft)
    else if funct = 0x02#6 then some (.mulS fd fs ft)
    else if funct = 0x03#6 then some (.divS fd fs ft)
    else if funct = 0x06#6 then some (.movS fd fs)
    else if funct = 0x24#6 then some (.cvtWS fd fs)
    else none
  else if fmt = 0x14#5 then
    if funct = 0x20#6 then some (.cvtSW fd fs) else none
  else if fmt = 0x00#5 then
    if funct = 0x00#6 then some (.mfc1 ft fs) else none
  else if fmt = 0x04#5 then
    if funct = 0x00#6 then some (.mtc1 ft fs) else none
  else none

/-- The row whose selector the word matches (R102 up to its last line); `none` is a reserved word (R100). -/
def selectRow (w : Word) : Option Instr :=
  let op := opcodeOf w
  let rs := rsOf w
  let rt := rtOf w
  let imm := immOf w
  if op = 0x00#6 then decodeRType w
  else if op = 0x01#6 then
    if rt = 0x00#5 then some (.bltz rs imm)
    else if rt = 0x01#5 then some (.bgez rs imm)
    else none
  else if op = 0x02#6 then some (.j (targetOf w))
  else if op = 0x03#6 then some (.jal (targetOf w))
  else if op = 0x04#6 then some (.beq rs rt imm)
  else if op = 0x05#6 then some (.bne rs rt imm)
  else if op = 0x06#6 then if rt = 0x00#5 then some (.blez rs imm) else none
  else if op = 0x07#6 then if rt = 0x00#5 then some (.bgtz rs imm) else none
  else if op = 0x08#6 then some (.addi rt rs imm)
  else if op = 0x09#6 then some (.addiu rt rs imm)
  else if op = 0x0A#6 then some (.slti rt rs imm)
  else if op = 0x0B#6 then some (.sltiu rt rs imm)
  else if op = 0x0C#6 then some (.andi rt rs imm)
  else if op = 0x0D#6 then some (.ori rt rs imm)
  else if op = 0x0E#6 then some (.xori rt rs imm)
  else if op = 0x0F#6 then some (.lui rt imm)
  else if op = 0x11#6 then decodeCop1 w
  else if op = 0x20#6 then some (.lb rt imm rs)
  else if op = 0x21#6 then some (.lh rt imm rs)
  else if op = 0x23#6 then some (.lw rt imm rs)
  else if op = 0x24#6 then some (.lbu rt imm rs)
  else if op = 0x25#6 then some (.lhu rt imm rs)
  else if op = 0x28#6 then some (.sb rt imm rs)
  else if op = 0x29#6 then some (.sh rt imm rs)
  else if op = 0x2B#6 then some (.sw rt imm rs)
  else if op = 0x31#6 then some (.lwc1 rt imm rs)
  else if op = 0x39#6 then some (.swc1 rt imm rs)
  else none

/-! ## Encoding (R80 to R94, R106) -/

/-- The R format: `opcode rs rt rd sa funct` (R82). -/
def encodeR (rs rt rd : Reg) (sa : Shamt) (funct : BitVec 6) : Word := 0x00#6 ++ rs ++ rt ++ rd ++ sa ++ funct

/-- The I format: `opcode rs rt imm` (R83). -/
def encodeI (op : BitVec 6) (rs rt : Reg) (imm : Imm) : Word := op ++ rs ++ rt ++ imm

/-- The J format: `opcode target` (R84). -/
def encodeJ (op : BitVec 6) (target : Target) : Word := op ++ target

/-- The coprocessor-1 format: `opcode fmt ft fs fd funct` (R85). -/
def encodeCop1 (fmt ft fs fd : Reg) (funct : BitVec 6) : Word := 0x11#6 ++ fmt ++ ft ++ fs ++ fd ++ funct

/-- The word of an instruction, every unused field coded with all 0 bits (R87, R89, R90, R93). -/
def encode : Instr → Word
  | .sll rd rt sa => encodeR 0 rt rd sa 0x00
  | .srl rd rt sa => encodeR 0 rt rd sa 0x02
  | .sra rd rt sa => encodeR 0 rt rd sa 0x03
  | .sllv rd rt rs => encodeR rs rt rd 0 0x04
  | .srlv rd rt rs => encodeR rs rt rd 0 0x06
  | .srav rd rt rs => encodeR rs rt rd 0 0x07
  | .jr rs => encodeR rs 0 0 0 0x08
  | .jalr rd rs => encodeR rs 0 rd 0 0x09
  | .syscall => encodeR 0 0 0 0 0x0C
  | .breakpoint => encodeR 0 0 0 0 0x0D
  | .mfhi rd => encodeR 0 0 rd 0 0x10
  | .mthi rs => encodeR rs 0 0 0 0x11
  | .mflo rd => encodeR 0 0 rd 0 0x12
  | .mtlo rs => encodeR rs 0 0 0 0x13
  | .mult rs rt => encodeR rs rt 0 0 0x18
  | .multu rs rt => encodeR rs rt 0 0 0x19
  | .div rs rt => encodeR rs rt 0 0 0x1A
  | .divu rs rt => encodeR rs rt 0 0 0x1B
  | .add rd rs rt => encodeR rs rt rd 0 0x20
  | .addu rd rs rt => encodeR rs rt rd 0 0x21
  | .sub rd rs rt => encodeR rs rt rd 0 0x22
  | .subu rd rs rt => encodeR rs rt rd 0 0x23
  | .and rd rs rt => encodeR rs rt rd 0 0x24
  | .or rd rs rt => encodeR rs rt rd 0 0x25
  | .xor rd rs rt => encodeR rs rt rd 0 0x26
  | .nor rd rs rt => encodeR rs rt rd 0 0x27
  | .slt rd rs rt => encodeR rs rt rd 0 0x2A
  | .sltu rd rs rt => encodeR rs rt rd 0 0x2B
  | .bltz rs imm => encodeI 0x01 rs 0x00 imm
  | .bgez rs imm => encodeI 0x01 rs 0x01 imm
  | .beq rs rt imm => encodeI 0x04 rs rt imm
  | .bne rs rt imm => encodeI 0x05 rs rt imm
  | .blez rs imm => encodeI 0x06 rs 0x00 imm
  | .bgtz rs imm => encodeI 0x07 rs 0x00 imm
  | .addi rt rs imm => encodeI 0x08 rs rt imm
  | .addiu rt rs imm => encodeI 0x09 rs rt imm
  | .slti rt rs imm => encodeI 0x0A rs rt imm
  | .sltiu rt rs imm => encodeI 0x0B rs rt imm
  | .andi rt rs imm => encodeI 0x0C rs rt imm
  | .ori rt rs imm => encodeI 0x0D rs rt imm
  | .xori rt rs imm => encodeI 0x0E rs rt imm
  | .lui rt imm => encodeI 0x0F 0 rt imm
  | .lb rt imm rs => encodeI 0x20 rs rt imm
  | .lh rt imm rs => encodeI 0x21 rs rt imm
  | .lw rt imm rs => encodeI 0x23 rs rt imm
  | .lbu rt imm rs => encodeI 0x24 rs rt imm
  | .lhu rt imm rs => encodeI 0x25 rs rt imm
  | .sb rt imm rs => encodeI 0x28 rs rt imm
  | .sh rt imm rs => encodeI 0x29 rs rt imm
  | .sw rt imm rs => encodeI 0x2B rs rt imm
  | .lwc1 ft imm rs => encodeI 0x31 rs ft imm
  | .swc1 ft imm rs => encodeI 0x39 rs ft imm
  | .j target => encodeJ 0x02 target
  | .jal target => encodeJ 0x03 target
  | .addS fd fs ft => encodeCop1 0x10 ft fs fd 0x00
  | .subS fd fs ft => encodeCop1 0x10 ft fs fd 0x01
  | .mulS fd fs ft => encodeCop1 0x10 ft fs fd 0x02
  | .divS fd fs ft => encodeCop1 0x10 ft fs fd 0x03
  | .movS fd fs => encodeCop1 0x10 0 fs fd 0x06
  | .cvtSW fd fs => encodeCop1 0x14 0 fs fd 0x20
  | .cvtWS fd fs => encodeCop1 0x10 0 fs fd 0x24
  | .mfc1 rt fs => encodeCop1 0x00 rt fs 0 0x00
  | .mtc1 rt fs => encodeCop1 0x04 rt fs 0 0x00

/-- The "Must be zero" fields of an instruction, as a mask of the word (R87, R89, R93). -/
def unusedMask : Instr → Word
  | .sll .. | .srl .. | .sra .. => encodeR 0x1F 0 0 0 0
  | .sllv .. | .srlv .. | .srav .. => encodeR 0 0 0 0x1F 0
  | .jr _ | .mthi _ | .mtlo _ => encodeR 0 0x1F 0x1F 0x1F 0
  | .jalr .. => encodeR 0 0x1F 0 0x1F 0
  | .syscall | .breakpoint => encodeR 0x1F 0x1F 0x1F 0x1F 0
  | .mfhi _ | .mflo _ => encodeR 0x1F 0x1F 0 0x1F 0
  | .mult .. | .multu .. | .div .. | .divu .. => encodeR 0 0 0x1F 0x1F 0
  | .add .. | .addu .. | .sub .. | .subu .. | .and .. | .or .. | .xor .. | .nor .. | .slt .. | .sltu .. =>
    encodeR 0 0 0 0x1F 0
  | .bltz .. | .bgez .. | .beq .. | .bne .. | .blez .. | .bgtz .. => 0
  | .addi .. | .addiu .. | .slti .. | .sltiu .. | .andi .. | .ori .. | .xori .. => 0
  | .lui .. => encodeI 0 0x1F 0 0
  | .lb .. | .lh .. | .lw .. | .lbu .. | .lhu .. | .sb .. | .sh .. | .sw .. | .lwc1 .. | .swc1 .. => 0
  | .j _ | .jal _ => 0
  | .addS .. | .subS .. | .mulS .. | .divS .. => 0
  | .movS .. | .cvtSW .. | .cvtWS .. => encodeR 0 0x1F 0 0 0
  | .mfc1 .. | .mtc1 .. => encodeR 0 0 0 0x1F 0

/-! ## Decode (R100 to R102) -/

/-- What decoding a word gives (R102). -/
inductive Decoded where
  /-- one of the 63 instructions -/
  | instr (i : Instr)
  /-- the selector is in no table (R100) -/
  | reserved
  /-- a selector of the tables with a 1 bit in an unused field, under `STRICT_UNUSED_FIELDS` (R101) -/
  | unusedField
deriving DecidableEq, Repr

/-- `decode(w)`, total on all 2^32 words; `strict` is `STRICT_UNUSED_FIELDS` (R101, R102). -/
def decode (strict : Bool) (w : Word) : Decoded :=
  match selectRow w with
  | none => .reserved
  | some i => if strict && w &&& unusedMask i != 0#32 then .unusedField else .instr i

/-- The opcodes the `CoprocessorUnusable` check is made for, before the table look-up (R102, 60_exceptions.md R231). -/
def isCop1Word (w : Word) : Bool :=
  opcodeOf w == 0x11#6 || opcodeOf w == 0x31#6 || opcodeOf w == 0x39#6

/-! ## Bytes and words (20_memory.md R53 to R55) -/

/-- The number whose bytes are given, least significant first. -/
def leValue : List Byte → Nat
  | [] => 0
  | b :: bs => b.toNat + 256 * leValue bs

/-- The `n` low bytes of a number, least significant first. -/
def leBytes : Nat → Nat → List Byte
  | 0, _ => []
  | n + 1, v => BitVec.ofNat 8 v :: leBytes n (v / 256)

/-- The value of the bytes at rising addresses (R53). -/
def joinBytes (e : Endian) (bs : List Byte) : Nat :=
  match e with
  | .little => leValue bs
  | .big => leValue bs.reverse

/-- The bytes at rising addresses that store the `8n`-bit value `v` (R54). -/
def splitBytes (e : Endian) (n v : Nat) : List Byte :=
  match e with
  | .little => leBytes n v
  | .big => (leBytes n v).reverse

/-- The instruction word that four bytes in memory hold (R55). -/
def wordOfBytes (e : Endian) (bs : List Byte) : Word := BitVec.ofNat 32 (joinBytes e bs)

/-! ## Fields an assembler codes from a label (R96, R97) -/

/-- `imm = ((label - (pc + 4)) >>s 2)[15:0]` (R96). -/
def branchField (pc label : Word) : Imm := ((label - (pc + 4#32)).sshiftRight 2).extractLsb' 0 16

/-- `target = label[27:2]` (R97). -/
def jumpField (label : Word) : Target := label.extractLsb' 2 26

/-! ## The host's reading of the decoder -/

/-- The instruction the decoder reads from an instruction whose low `nbits` bits are `w` and whose other bits are 0, laid
out in memory (here big-endian; R55 gives the same word for either order) and read back; strict (log 33). -/
def decodeTableWord (nbits w : Nat) : Option Instr :=
  match decode true (wordOfBytes .big (splitBytes .big 4 (w % 2 ^ min nbits 32))) with
  | .instr i => some i
  | .reserved => none
  | .unusedField => none

end Sys2Proof
end

