-- ==== Sys2Proof/Machine/Operands.lean ====
section
/-! DEFINITION. The operand forms of the instructions: immediates, shift amounts, effective addresses and targets
(30_encoding.md R95 to R99, 20_memory.md R67). -/

namespace Sys2Proof.Machine

/-- An arithmetic immediate or a displacement: `sext_32(imm)` (30_encoding.md R95, 20_memory.md R67). -/
def signedImm (imm : Imm) : Word := imm.signExtend 32

/-- A logical immediate: `zext_32(imm)` (30_encoding.md R98). -/
def zeroImm (imm : Imm) : Word := imm.setWidth 32

/-- The immediate of `lui`: `imm ++ 0^16` (30_encoding.md R98). -/
def upperImm (imm : Imm) : Word := imm ++ 0#16

/-- The amount of a variable shift: the low five bits of `x[rs]` (40_rtype_alu.md R133). -/
def shiftAmount (v : Word) : Nat := (v.extractLsb' 0 5).toNat

/-- `ea = x[rs] + sext_32(imm)`, modulo 2^32, of a base value and a displacement (20_memory.md R67). -/
def effectiveAddress (base : Word) (imm : Imm) : Word := base + signedImm imm

/-- `BranchTarget = (pc + 4) + sext_32(imm ++ 0b00)` (30_encoding.md R96). -/
def branchTarget (pc : Word) (imm : Imm) : Word := (pc + 4#32) + (imm ++ 0#2).signExtend 32

/-- `JumpTarget = (pc + 4)[31:28] ++ target ++ 0b00` (30_encoding.md R97). -/
def jumpTarget (pc : Word) (target : Target) : Word := (pc + 4#32).extractLsb' 28 4 ++ target ++ 0#2

/-- `sext_32` of the `8n`-bit value `v` (00_scope.md R8), for `n` bytes. -/
def signExtendBytes (n v : Nat) : Word := (BitVec.ofNat (8 * n) v).signExtend 32

/-- `zext_32` of the `8n`-bit value `v` (00_scope.md R8), for `n` bytes. -/
def zeroExtendBytes (n v : Nat) : Word := (BitVec.ofNat (8 * n) v).setWidth 32

end Sys2Proof.Machine
end

