-- ==== Sys2Proof/Machine/State.lean ====
section
/-! DEFINITION. The architectural state (10_state.md R20 to R40), what a stop records (60_exceptions.md R220 to R224),
and the launch state (70_reset_and_hazards.md R250). -/

namespace Sys2Proof.Machine

/-- Byte-addressed memory (20_memory.md R50): the bytes that hold a value, at strictly rising addresses below 2^32. A byte
that is not listed holds "no value" (10_state.md R39, R40; log 8). -/
abbrev Memory := List Host.Cell

/-- A register named by register file and index (70_reset_and_hazards.md R256). -/
inductive RegName where
  /-- general register -/
  | gpr (r : Reg)
  /-- floating-point register -/
  | fpr (r : Reg)
deriving DecidableEq, Repr

/-- The cause of an exception with its `info` (60_exceptions.md R221). -/
inductive Cause where
  /-- signed overflow of `add`, `addi`, `sub` (R225) -/
  | integerOverflow
  /-- every `syscall` (R228) -/
  | syscall
  /-- every `break` (R229) -/
  | breakpoint
  /-- a fetched word that is reserved; the word (R227) -/
  | reservedInstruction (word : Word)
  /-- a coprocessor-1 word when `CP1_USABLE = false`; the coprocessor number (R231) -/
  | coprocessorUnusable (number : Nat)
  /-- a fetch at a `pc` that is not a multiple of 4; `pc` (R226) -/
  | addressErrorFetch (pc : Word)
  /-- a misaligned load; `ea` (R226) -/
  | addressErrorLoad (ea : Word)
  /-- a misaligned store; `ea` (R226) -/
  | addressErrorStore (ea : Word)
  /-- an access to a byte outside `MEM_ALLOC`; the address (R230) -/
  | unallocatedAccess (addr : Word)
deriving DecidableEq, Repr

/-- The state of the machine (10_state.md head). -/
structure State where
  /-- `x[0]` to `x[31]` (R20). Element 0 is kept 0 and read as 0 (R21). -/
  x : Vector Word 32
  /-- `HI` (R24) -/
  hi : Word
  /-- `LO` (R24) -/
  lo : Word
  /-- the address of the instruction being executed (R25) -/
  pc : Word
  /-- the address of the instruction executed after the current one; only when `BRANCH_DELAY = true`, else inert (R26) -/
  npc : Word
  /-- the current instruction is in a delay slot; only when `BRANCH_DELAY = true`, else inert (R26) -/
  ds : Bool
  /-- `f[0]` to `f[31]` (R27) -/
  f : Vector Word 32
  /-- the register the previous instruction loaded; only when `LOAD_DELAY = true`, else `none` (R38, R256) -/
  ld : Option RegName
  /-- memory (20_memory.md R50) -/
  mem : Memory
  /-- the parameters of 00_scope.md R5, the model's own field (log 1) -/
  params : Params
deriving DecidableEq, Repr

/-- Why the machine stops with a fault. -/
inductive Fault where
  /-- `Stopped(cause, epc, in_delay_slot, info, state)` of 60_exceptions.md R220 and R224, `info` standing in `cause`.
  Raised by every exception the spec names, `syscall` and `break` among them. The spec makes it terminal. Safe: nothing can
  be claimed of what happens after it (92_eei_decisions.md D6). -/
  | stopped (cause : Cause) (epc : Word) (inDelaySlot : Bool) (state : State)
  /-- A load or a fetch reads a memory byte that holds no value: "must not be read. A model should fault on such a read"
  (10_state.md R40; U10; log 8). Raised by loads and fetches. Safe. -/
  | noValue (addr : Word)
deriving DecidableEq, Repr

/-- Why the model gives no meaning (`Refused(reason)`, 60_exceptions.md R220). -/
inductive Refusal where
  /-- An instruction without a meaning in this model, by its mnemonic. Raised by no arm of `exec`. Safe. -/
  | notModelled (mnemonic : String)
  /-- A word with a 1 bit in an unused field when `STRICT_UNUSED_FIELDS = true`; the word (30_encoding.md R101). Raised by
  the step. Safe (D9). -/
  | unusedFieldNotZero (word : Word)
  /-- A store that touches `TEXT`; the address (20_memory.md R68). Raised by `sb`, `sh`, `sw`, `swc1`. Safe (D18). -/
  | storeIntoText (addr : Word)
  /-- A fetch from an allocated address outside `TEXT`; `pc` (20_memory.md R68). Raised by the step. Safe (D18). -/
  | fetchOutsideText (pc : Word)
  /-- A branch or jump executed with `ds = true` when `BRANCH_DELAY = true` (10_state.md R32 (a)). Raised by the ten control
  transfers. Safe (D26). -/
  | controlTransferInDelaySlot
  /-- An instruction that reads the register named by `ld` when `LOAD_DELAY = true` (70_reset_and_hazards.md R256). Raised by
  every instruction with a register operand. Safe (D23). -/
  | useOfLoadedRegister (r : RegName)
deriving DecidableEq, Repr

/-- The outcome of a step or of an instruction (60_exceptions.md R220). -/
abbrev Result := Host.Outcome State Fault Refusal

/-- The launch state of 70_reset_and_hazards.md R250 and 10_state.md R39 for given parameters, before a program or data is
placed: registers of which the spec gives no value hold `launchFill` (log 7), no byte of memory holds a value. -/
def State.launch (p : Params) : State where
  x := (Vector.replicate 32 launchFill).set 0 0#32
  hi := launchFill
  lo := launchFill
  pc := p.entry
  npc := p.entry + 4#32
  ds := false
  f := Vector.replicate 32 launchFill
  ld := none
  mem := []
  params := p

/-- The machine right after reset: the launch state with the default parameters. -/
def State.reset : State := State.launch Params.default

end Sys2Proof.Machine
end

