-- ==== Sys2Proof/Machine/Ops.lean ====
section
/-! DEFINITION. The named operations over registers, `pc` and memory (10_state.md R21, R23, R30 to R33, 20_memory.md R53 to
R60, R68), and taking an exception (60_exceptions.md R224). -/

namespace Sys2Proof.Machine

/-! ## Registers -/

/-- `x[i]`; register 0 always reads as 0 (10_state.md R21). -/
def readX (s : State) (r : Reg) : Word := if r = 0#5 then 0#32 else s.x[r.toNat]'(r.isLt)

/-- `x[i] <- v`; a write to register 0 is discarded (10_state.md R21). -/
def writeX (s : State) (r : Reg) (v : Word) : State :=
  if r = 0#5 then s else { s with x := s.x.set r.toNat v r.isLt }

/-- `f[i]`; no floating-point register is hard-wired (10_state.md R27). -/
def readF (s : State) (r : Reg) : Word := s.f[r.toNat]'(r.isLt)

/-- `f[i] <- v` (10_state.md R27). -/
def writeF (s : State) (r : Reg) (v : Word) : State := { s with f := s.f.set r.toNat v r.isLt }

/-- `HI` and `LO` written together (41_rtype_muldiv.md R140). -/
def writeHiLo (s : State) (hi lo : Word) : State := { s with hi := hi, lo := lo }

/-! ## Exceptions (60_exceptions.md R224) -/

/-- The current instruction is in a delay slot (10_state.md R26). -/
def inDelaySlot (s : State) : Bool := s.params.branchDelay && s.ds

/-- `epc`: `pc`, or in a delay slot `pc - 4`, the address of the branch (R224). -/
def exceptionPc (s : State) : Word := if inDelaySlot s then s.pc - 4#32 else s.pc

/-- `raise E(info)`: the instruction has no effect; the run stops with cause, `epc`, `in_delay_slot`, `info` (in the cause)
and the unchanged state (R224). There is no handler and no return (R232, R233). -/
def raise (s : State) (c : Cause) : Result := .fault (.stopped c (exceptionPc s) (inDelaySlot s) s)

/-! ## Control transfer (10_state.md R26, R30 to R33) -/

/-- The ten control-transfer instructions (10_state.md R26, R30). -/
def isControlTransfer : Instr → Bool
  | .jr _ | .jalr _ _ | .j _ | .jal _ => true
  | .bltz _ _ | .bgez _ _ | .beq _ _ _ | .bne _ _ _ | .blez _ _ | .bgtz _ _ => true
  | .sll .. | .srl .. | .sra .. | .sllv .. | .srlv .. | .srav .. | .syscall | .breakpoint | .mfhi .. => false
  | .mthi .. | .mflo .. | .mtlo .. | .mult .. | .multu .. | .div .. | .divu .. | .add .. | .addu .. => false
  | .sub .. | .subu .. | .and .. | .or .. | .xor .. | .nor .. | .slt .. | .sltu .. | .addi .. => false
  | .addiu .. | .slti .. | .sltiu .. | .andi .. | .ori .. | .xori .. | .lui .. | .lb .. | .lh .. => false
  | .lw .. | .lbu .. | .lhu .. | .sb .. | .sh .. | .sw .. | .lwc1 .. | .swc1 .. | .addS .. => false
  | .subS .. | .mulS .. | .divS .. | .movS .. | .cvtSW .. | .cvtWS .. | .mfc1 .. | .mtc1 .. => false

/-- What `ld` becomes: the register the instruction loaded, only kept when `LOAD_DELAY = true`; "A load to `x[0]` sets no
`ld`" (70_reset_and_hazards.md R256). DESIGN CHOICE, unsafe (log 34): `mfc1` with `rt = 0` counts as such a load, which R256
does not say. -/
def nextLd (s : State) (loaded : Option RegName) : Option RegName :=
  if s.params.loadDelay && loaded != some (.gpr 0#5) then loaded else none

/-- `pc` moves on to `next`: `pc <- next` without a delay slot; with one, `pc <- npc`, `npc <- next` and `ds` as given
(10_state.md R30 to R32). -/
def movePc (s : State) (next : Word) (transfer : Bool) (loaded : Option RegName) : State :=
  if s.params.branchDelay then { s with pc := s.npc, npc := next, ds := transfer, ld := nextLd s loaded }
  else { s with pc := next, ld := nextLd s loaded }

/-- `NextInstr`'s address: `pc + 4`, with `BRANCH_DELAY = true` the new `npc`, `npc + 4` (10_state.md R30). -/
def sequentialPc (s : State) : Word := if s.params.branchDelay then s.npc + 4#32 else s.pc + 4#32

/-- `NextInstr` of an instruction that is no control transfer; `loaded` is the register it loaded, if any (R30, R256). -/
def nextInstr (s : State) (loaded : Option RegName) : State := movePc s (sequentialPc s) false loaded

/-- `NextInstr` of a conditional branch that is not taken (R30: `ds <- true`). -/
def notTaken (s : State) : State := movePc s (sequentialPc s) true none

/-- `Branch(target)` (10_state.md R31, R32). -/
def branchTo (s : State) (target : Word) : State := movePc s target true none

/-- `LinkAddr`: `pc + 4`, or `pc + 8` after a delay slot (10_state.md R33). -/
def linkAddr (s : State) : Word := if s.params.branchDelay then s.pc + 8#32 else s.pc + 4#32

/-- The instruction completes (60_exceptions.md R220, `Next`) and goes on with `NextInstr`. -/
def complete (s : State) : Result := .next (nextInstr s none)

/-- The instruction completes after loading register `r` (70_reset_and_hazards.md R256). -/
def completeLoad (s : State) (r : RegName) : Result := .next (nextInstr s (some r))

/-! ## Conditions checked before an instruction acts -/

/-- The register of a list that `ld` names, when `LOAD_DELAY = true` (70_reset_and_hazards.md R256). -/
def loadedUse (s : State) (reads : List RegName) : Option RegName :=
  if s.params.loadDelay then reads.find? (fun r => s.ld == some r) else none

/-- An instruction that reads the registers `reads`: refused if one of them was loaded by the instruction before it and
`LOAD_DELAY = true` (70_reset_and_hazards.md R256; log 17). -/
def reading (s : State) (reads : List RegName) (k : Result) : Result :=
  match loadedUse s reads with
  | some r => .refused (.useOfLoadedRegister r)
  | none => k

/-- A branch or jump: refused in a delay slot (10_state.md R32 (a)). -/
def transferring (s : State) (k : Result) : Result :=
  if inDelaySlot s then .refused .controlTransferInDelaySlot else k

/-- A coprocessor-1 instruction: `if not CP1_USABLE: raise CoprocessorUnusable(1)` (47_cp1_float.md R214). -/
def usingCp1 (s : State) (k : Result) : Result :=
  if s.params.cp1Usable then k else raise s (.coprocessorUnusable 1)

/-- Writes `v` to general register `rd` and goes on (the shape of every register-destination instruction). -/
def setX (s : State) (rd : Reg) (v : Word) : Result := complete (writeX s rd v)

/-- Writes `v` to floating-point register `fd` and goes on. -/
def setF (s : State) (fd : Reg) (v : Word) : Result := complete (writeF s fd v)

/-- Writes `HI` and `LO` and goes on. -/
def setHiLo (s : State) (hi lo : Word) : Result := complete (writeHiLo s hi lo)

/-! ## Memory -/

/-- The byte at an address, `none` where memory holds no value. -/
def Memory.read : Memory → Nat → Option Byte
  | [], _ => none
  | (b, v) :: m, a => if a = b then some v else Memory.read m a

/-- Memory with byte `v` at address `a`, addresses kept strictly rising. -/
def Memory.write : Memory → Nat → Byte → Memory
  | [], a, v => [(a, v)]
  | (b, w) :: m, a, v =>
    if a < b then (a, v) :: (b, w) :: m
    else if a = b then (a, v) :: m
    else (b, w) :: Memory.write m a v

/-- The canonical form: addresses strictly rising and inside the 2^32 bytes of the address space (20_memory.md R50). An
address that is not listed holds no value, which no entry is equal to. -/
def Memory.wf : Memory → Bool
  | [] => true
  | [(a, _)] => decide (a < 4294967296)
  | (a, _) :: (b, v) :: m => decide (a < b) && Memory.wf ((b, v) :: m)

/-- The address is in the set. -/
def inSet (l : AddrSet) (a : Nat) : Bool := l.any fun r => decide (r.base ≤ a ∧ a < r.base + r.size)

/-- The addresses `a` to `a + n - 1` modulo 2^32 of an `n`-byte access (20_memory.md R60). -/
def accessAddrs (a : Word) : Nat → List Word
  | 0 => []
  | n + 1 => a :: accessAddrs (a + 1#32) n

/-- Every byte of the access is in the set. -/
def allIn (l : AddrSet) (a : Word) (n : Nat) : Bool := (accessAddrs a n).all fun b => inSet l b.toNat

/-- Some byte of the access is in the set. -/
def someIn (l : AddrSet) (a : Word) (n : Nat) : Bool := (accessAddrs a n).any fun b => inSet l b.toNat

/-- `a` is a multiple of the access width `n` (20_memory.md R56, R57). -/
def aligned (a : Word) (n : Nat) : Bool := decide (a.toNat % n = 0)

/-- The bytes at the given addresses, `none` if one of them holds no value (10_state.md R40). -/
def readBytes (m : Memory) : List Word → Option (List Byte)
  | [] => some []
  | a :: as =>
    match Memory.read m a.toNat with
    | none => none
    | some b =>
      match readBytes m as with
      | none => none
      | some bs => some (b :: bs)

/-- Memory with the given bytes at the given addresses. -/
def writeBytes (m : Memory) : List Word → List Byte → Memory
  | a :: as, b :: bs => writeBytes (Memory.write m a.toNat b) as bs
  | _, _ => m

/-- `MemRead(addr, n)` of a load after its alignment check: allocation, then the bytes by `ENDIAN`; `k` goes on with the
`8n`-bit value (20_memory.md R53, R60). -/
def memRead (s : State) (a : Word) (n : Nat) (k : Nat → Result) : Result :=
  if allIn s.params.memAlloc a n then
    match readBytes s.mem (accessAddrs a n) with
    | some bs => k (joinBytes s.params.endian bs)
    | none => .fault (.noValue a)
  else raise s (.unallocatedAccess a)

/-- A load of `n` bytes at `ea`: alignment, then `MemRead` (20_memory.md R57, 45_itype_load_store.md R190). -/
def load (s : State) (ea : Word) (n : Nat) (k : Nat → Result) : Result :=
  if aligned ea n then memRead s ea n k else raise s (.addressErrorLoad ea)

/-- The bytes of `MemWrite(addr, n, v)` placed in memory by `ENDIAN` (20_memory.md R54). -/
def storeBytes (s : State) (a : Word) (n : Nat) (v : Word) : State :=
  { s with mem := writeBytes s.mem (accessAddrs a n) (splitBytes s.params.endian n v.toNat) }

/-- A store of the low `n` bytes of `v` at `ea`: alignment, allocation, `TEXT`, then `MemWrite` (20_memory.md R54, R57, R60,
R68, 45_itype_load_store.md R190). -/
def store (s : State) (ea : Word) (n : Nat) (v : Word) : Result :=
  if aligned ea n then
    if allIn s.params.memAlloc ea n then
      if someIn s.params.text ea n then .refused (.storeIntoText ea)
      else complete (storeBytes s ea n v)
    else raise s (.unallocatedAccess ea)
  else raise s (.addressErrorStore ea)

/-- A load of `n` bytes into general register `rt`, extended by `ext` (20_memory.md R58). -/
def loadX (s : State) (rt : Reg) (ea : Word) (n : Nat) (ext : Nat → Nat → Word) : Result :=
  load s ea n fun v => completeLoad (writeX s rt (ext n v)) (.gpr rt)

end Sys2Proof.Machine
end

