-- ==== Sys2Proof/Machine/Alu.lean ====
section
/-! DEFINITION. R-type arithmetic, logic and comparison (40_rtype_alu.md R120 to R129, R136, R137). -/

namespace Sys2Proof.Machine

/-- Three-register form: reads `x[rs]` and `x[rt]`, writes `x[rd]` (10_state.md R23). -/
def regOp (s : State) (rd rs rt : Reg) (op : Word → Word → Word) : Result :=
  reading s [.gpr rs, .gpr rt] (setX s rd (op (readX s rs) (readX s rt)))

/-- `add` (R120): the sum, or `IntegerOverflow` (R137). -/
def execAdd (rd rs rt : Reg) (s : State) : Result :=
  reading s [.gpr rs, .gpr rt]
    (if addOverflows (readX s rs) (readX s rt) then raise s .integerOverflow else setX s rd (readX s rs + readX s rt))

/-- `addu` (R121): the sum modulo 2^32. -/
def execAddu (rd rs rt : Reg) (s : State) : Result := regOp s rd rs rt fun a b => a + b

/-- `sub` (R122): `rs` minus `rt`, or `IntegerOverflow` (R137). -/
def execSub (rd rs rt : Reg) (s : State) : Result :=
  reading s [.gpr rs, .gpr rt]
    (if subOverflows (readX s rs) (readX s rt) then raise s .integerOverflow else setX s rd (readX s rs - readX s rt))

/-- `subu` (R123): the difference modulo 2^32. -/
def execSubu (rd rs rt : Reg) (s : State) : Result := regOp s rd rs rt fun a b => a - b

/-- `and` (R124). -/
def execAnd (rd rs rt : Reg) (s : State) : Result := regOp s rd rs rt fun a b => a &&& b

/-- `or` (R125). -/
def execOr (rd rs rt : Reg) (s : State) : Result := regOp s rd rs rt fun a b => a ||| b

/-- `xor` (R126). -/
def execXor (rd rs rt : Reg) (s : State) : Result := regOp s rd rs rt fun a b => a ^^^ b

/-- `nor` (R127). -/
def execNor (rd rs rt : Reg) (s : State) : Result := regOp s rd rs rt fun a b => ~~~(a ||| b)

/-- `slt` (R128): signed comparison of the two values. -/
def execSlt (rd rs rt : Reg) (s : State) : Result := regOp s rd rs rt fun a b => setValue (decide (a.toInt < b.toInt))

/-- `sltu` (R129): unsigned comparison of the two values. -/
def execSltu (rd rs rt : Reg) (s : State) : Result := regOp s rd rs rt fun a b => setValue (decide (a.toNat < b.toNat))

end Sys2Proof.Machine
end

