-- ==== Sys2Proof/Machine/Branch.lean ====
section
/-! DEFINITION. Conditional branches (44_itype_branch.md R170 to R176). No branch writes a register; a branch in a delay
slot is refused, taken or not (10_state.md R32 (a)). -/

namespace Sys2Proof.Machine

/-- A branch on a condition: `Branch(BranchTarget)` or `NextInstr` (R176, 30_encoding.md R96). -/
def branchIf (s : State) (reads : List RegName) (cond : Bool) (imm : Imm) : Result :=
  transferring s (reading s reads (.next (if cond then branchTo s (branchTarget s.pc imm) else notTaken s)))

/-- `bltz` (R170). -/
def execBltz (rs : Reg) (imm : Imm) (s : State) : Result :=
  branchIf s [.gpr rs] (decide ((readX s rs).toInt < 0)) imm

/-- `bgez` (R171). -/
def execBgez (rs : Reg) (imm : Imm) (s : State) : Result :=
  branchIf s [.gpr rs] (decide (0 ≤ (readX s rs).toInt)) imm

/-- `beq` (R172). -/
def execBeq (rs rt : Reg) (imm : Imm) (s : State) : Result :=
  branchIf s [.gpr rs, .gpr rt] (readX s rs == readX s rt) imm

/-- `bne` (R173). -/
def execBne (rs rt : Reg) (imm : Imm) (s : State) : Result :=
  branchIf s [.gpr rs, .gpr rt] (readX s rs != readX s rt) imm

/-- `blez` (R174). -/
def execBlez (rs : Reg) (imm : Imm) (s : State) : Result :=
  branchIf s [.gpr rs] (decide ((readX s rs).toInt ≤ 0)) imm

/-- `bgtz` (R175). -/
def execBgtz (rs : Reg) (imm : Imm) (s : State) : Result :=
  branchIf s [.gpr rs] (decide (0 < (readX s rs).toInt)) imm

end Sys2Proof.Machine
end

