-- ==== Sys2Proof/Machine/Float.lean ====
section
/-! DEFINITION. Floating-point numerics (47_cp1_float.md R209 to R213). Every finite single is a whole multiple of 2^-149,
so `fpMag` gives its exact magnitude in that unit as a natural number and all results are computed exactly before the one
rounding. No flag, no trap (R213). -/

namespace Sys2Proof.Machine

/-! ## The single-precision format (R209) -/

/-- Bit 31, the sign. -/
def fpSign (w : Word) : Bool := w.getLsbD 31
/-- Bits 30:23, the biased exponent `e`. -/
def fpExp (w : Word) : Nat := (w.extractLsb' 23 8).toNat
/-- Bits 22:0, the fraction `m`. -/
def fpFrac (w : Word) : Nat := (w.extractLsb' 0 23).toNat
/-- `e = 255`, `m != 0`. -/
def isNaN (w : Word) : Bool := fpExp w == 255 && fpFrac w != 0
/-- `e = 255`, `m = 0`. -/
def isInf (w : Word) : Bool := fpExp w == 255 && fpFrac w == 0
/-- `e = 0`, `m = 0`: +0 or -0. -/
def isZero (w : Word) : Bool := fpExp w == 0 && fpFrac w == 0
/-- `e = 0`, `m != 0`. -/
def isSubnormal (w : Word) : Bool := fpExp w == 0 && fpFrac w != 0

/-- One, in units of 2^-149. -/
def fpOne : Nat := 2 ^ 149

/-- The magnitude of a finite single in units of 2^-149: `m` when `e = 0`, else `(2^23 + m) * 2^(e-1)` (R209). -/
def fpMag (w : Word) : Nat := if fpExp w = 0 then fpFrac w else (8388608 + fpFrac w) * 2 ^ (fpExp w - 1)

/-- The value of a finite single in units of 2^-149. -/
def fpValue (w : Word) : Int := if fpSign w then -(fpMag w : Int) else fpMag w

/-- The single of a sign and the 31 low bits given as a number. -/
def fpPack (neg : Bool) (bits : Nat) : Word := BitVec.ofNat 32 (if neg then 2147483648 + bits else bits)

/-- Zero of a sign. -/
def fpZero (neg : Bool) : Word := fpPack neg 0
/-- Infinity of a sign, `0x7F800000` or `0xFF800000`. -/
def fpInf (neg : Bool) : Word := fpPack neg 0x7F800000

/-! ## Rounding -/

/-- `num / den` rounded to a whole number, to nearest, ties to even. -/
def divNearestEven (num den : Nat) : Nat :=
  let q := num / den
  let r := num % den
  if den < 2 * r ∨ (2 * r = den ∧ q % 2 = 1) then q + 1 else q

/-- `round_RNE_binary32` of the magnitude `num / den`, in units of 2^-149, with a sign (R210): the representable value
nearest to it, the one with even fraction on a tie, infinity when the rounded magnitude reaches 2^128, a subnormal or zero
below 2^-126. With `k` the exponent of the spacing, the 31 low bits are `k * 2^23` plus the rounded significand. -/
def roundSingle (neg : Bool) (num den : Nat) : Word :=
  let q := num / den
  if 2 ^ 128 * fpOne ≤ q then fpInf neg
  else
    let k := if q < 16777216 then 0 else Nat.log2 q - 23
    let bits := k * 8388608 + divNearestEven num (den * 2 ^ k)
    if 0x7F800000 ≤ bits then fpInf neg else fpPack neg bits

/-! ## The default record: IEEE 754 single, round to nearest even (R210, R211) -/

/-- A NaN pattern (`e = 255`, `m != 0`) from 32 drawn bits; every NaN pattern is one of these (R211, U6; log 14). -/
def nanOf (bits : Word) : Word :=
  if fpFrac bits = 0 then bits ||| 0x7FC00000#32 else bits ||| 0x7F800000#32

/-- The exact sum, rounded; `nan` is the NaN an invalid operation or a NaN operand gives (R210, R211). -/
def ieeeSum (nan a b : Word) : Word :=
  if isNaN a || isNaN b then nan
  else if isInf a then if isInf b && fpSign a != fpSign b then nan else a
  else if isInf b then b
  else
    let z := fpValue a + fpValue b
    if z = 0 then fpZero (fpSign a && fpSign b) else roundSingle (decide (z < 0)) z.natAbs 1

/-- `fp_add_s`, default. -/
def ieeeAdd (a b : Word) : Word := ieeeSum (nanOf (Config.nanDraw .add a b)) a b

/-- `fp_sub_s`, default: the sum with the second operand's sign reversed. -/
def ieeeSub (a b : Word) : Word := ieeeSum (nanOf (Config.nanDraw .sub a b)) a (b ^^^ 0x80000000#32)

/-- `fp_mul_s`, default. -/
def ieeeMul (a b : Word) : Word :=
  let neg := fpSign a != fpSign b
  if isNaN a || isNaN b || (isInf a && isZero b) || (isZero a && isInf b) then nanOf (Config.nanDraw .mul a b)
  else if isInf a || isInf b then fpInf neg
  else roundSingle neg (fpMag a * fpMag b) fpOne

/-- `fp_div_s`, default: division of a non-zero finite number by zero gives infinity and no trap. -/
def ieeeDiv (a b : Word) : Word :=
  let neg := fpSign a != fpSign b
  if isNaN a || isNaN b || (isInf a && isInf b) || (isZero a && isZero b) then nanOf (Config.nanDraw .div a b)
  else if isInf a || isZero b then fpInf neg
  else if isInf b then fpZero neg
  else roundSingle neg (fpMag a * fpOne) (fpMag b)

/-- `fp_cvt_s_w`, default: the signed integer rounded (47_cp1_float.md R205). -/
def ieeeCvtSW (a : Word) : Word := roundSingle (decide (a.toInt < 0)) (a.toInt.natAbs * fpOne) 1

/-- A finite single rounded to a whole number by `CVT_W_ROUNDING` (47_cp1_float.md R206). -/
def roundToInt (mode : CvtRounding) (a : Word) : Int :=
  let mag := fpMag a
  let whole := mag / fpOne
  let away := if mag % fpOne = 0 then whole else whole + 1
  let neg := fpSign a
  let n := match mode with
    | .nearestEven => divNearestEven mag fpOne
    | .towardZero => whole
    | .up => if neg then whole else away
    | .down => if neg then away else whole
  if neg then -(n : Int) else n

/-- `cvt.w.s` has a stated result: no NaN, no infinity, the rounded integer in 32 bits (47_cp1_float.md R206). -/
def cvtWSValid (mode : CvtRounding) (a : Word) : Bool :=
  let n := roundToInt mode a
  !isNaN a && !isInf a && decide (-2147483648 ≤ n ∧ n ≤ 2147483647)

/-- `fp_cvt_w_s`, default; any 32-bit value where no result is stated (U8; log 15). -/
def ieeeCvtWS (mode : CvtRounding) (a : Word) : Word :=
  if cvtWSValid mode a then BitVec.ofInt 32 (roundToInt mode a) else Config.cvtDraw mode a

/-! ## The conservative domain (R212) -/

/-- Zero, normal or infinite. -/
def inConservativeDomain (w : Word) : Bool := !isNaN w && !isSubnormal w

/-- An arithmetic result inside the conservative domain (an invalid operation gives a NaN, which is outside), else a draw. -/
def conservativeArith (op : FpOp) (r a b : Word) : Word :=
  if inConservativeDomain a && inConservativeDomain b && inConservativeDomain r then r
  else Config.conservativeDraw op a b

/-- `cvt.w.s` in the conservative domain: a zero or normal operand with a stated result, else a draw. -/
def conservativeCvtWS (mode : CvtRounding) (a : Word) : Word :=
  if inConservativeDomain a && cvtWSValid mode a then ieeeCvtWS mode a
  else Config.conservativeDraw (.cvtWS mode) a 0#32

/-! ## The record `FP_NUMERICS` (R210) -/

/-- `fp_add_s`. -/
def fpAdd (num : FpNumerics) (a b : Word) : Word :=
  match num with
  | .ieee => ieeeAdd a b
  | .conservative => conservativeArith .add (ieeeAdd a b) a b
  | .uninterpreted => Config.fpResult .add a b

/-- `fp_sub_s`. -/
def fpSub (num : FpNumerics) (a b : Word) : Word :=
  match num with
  | .ieee => ieeeSub a b
  | .conservative => conservativeArith .sub (ieeeSub a b) a b
  | .uninterpreted => Config.fpResult .sub a b

/-- `fp_mul_s`. -/
def fpMul (num : FpNumerics) (a b : Word) : Word :=
  match num with
  | .ieee => ieeeMul a b
  | .conservative => conservativeArith .mul (ieeeMul a b) a b
  | .uninterpreted => Config.fpResult .mul a b

/-- `fp_div_s`. -/
def fpDiv (num : FpNumerics) (a b : Word) : Word :=
  match num with
  | .ieee => ieeeDiv a b
  | .conservative => conservativeArith .div (ieeeDiv a b) a b
  | .uninterpreted => Config.fpResult .div a b

/-- `fp_cvt_s_w`; R212 does not restrict it. -/
def fpCvtSW (num : FpNumerics) (a : Word) : Word :=
  match num with
  | .ieee => ieeeCvtSW a
  | .conservative => ieeeCvtSW a
  | .uninterpreted => Config.fpResult .cvtSW a 0#32

/-- `fp_cvt_w_s`. -/
def fpCvtWS (num : FpNumerics) (mode : CvtRounding) (a : Word) : Word :=
  match num with
  | .ieee => ieeeCvtWS mode a
  | .conservative => conservativeCvtWS mode a
  | .uninterpreted => Config.fpResult (.cvtWS mode) a 0#32

end Sys2Proof.Machine
end

