-- ==== Sys2Proof/Machine/Cp1.lean ====
section
/-! DEFINITION. Coprocessor 1 (47_cp1_float.md R200 to R208, R213, R214). The only exception one of these instructions can
raise is `CoprocessorUnusable(1)`. -/

namespace Sys2Proof.Machine

/-- Two floating-point sources: reads `f[fs]` and `f[ft]`, writes `f[fd]`. -/
def fpBinary (s : State) (fd fs ft : Reg) (op : Word → Word → Word) : Result :=
  usingCp1 s (reading s [.fpr fs, .fpr ft] (setF s fd (op (readF s fs) (readF s ft))))

/-- One floating-point source: reads `f[fs]`, writes `f[fd]`. -/
def fpUnary (s : State) (fd fs : Reg) (op : Word → Word) : Result :=
  usingCp1 s (reading s [.fpr fs] (setF s fd (op (readF s fs))))

/-- `add.s` (R200). -/
def execAddS (fd fs ft : Reg) (s : State) : Result := fpBinary s fd fs ft (fpAdd s.params.fpNumerics)

/-- `sub.s` (R201): `fs` minus `ft`. -/
def execSubS (fd fs ft : Reg) (s : State) : Result := fpBinary s fd fs ft (fpSub s.params.fpNumerics)

/-- `mul.s` (R202). -/
def execMulS (fd fs ft : Reg) (s : State) : Result := fpBinary s fd fs ft (fpMul s.params.fpNumerics)

/-- `div.s` (R203): `fs` divided by `ft`; no trap. -/
def execDivS (fd fs ft : Reg) (s : State) : Result := fpBinary s fd fs ft (fpDiv s.params.fpNumerics)

/-- `mov.s` (R204): the 32 bits are copied unchanged. -/
def execMovS (fd fs : Reg) (s : State) : Result := fpUnary s fd fs fun a => a

/-- `cvt.s.w` (R205): `f[fs]` is a 32-bit integer. -/
def execCvtSW (fd fs : Reg) (s : State) : Result := fpUnary s fd fs (fpCvtSW s.params.fpNumerics)

/-- `cvt.w.s` (R206): a 32-bit integer left in `f[fd]`. -/
def execCvtWS (fd fs : Reg) (s : State) : Result :=
  fpUnary s fd fs (fpCvtWS s.params.fpNumerics s.params.cvtRounding)

/-- `mfc1` (R207): `x[rt] <- f[fs]`, sets `ld` as a load does (70_reset_and_hazards.md R256; with `rt = 0` none, log 34). -/
def execMfc1 (rt fs : Reg) (s : State) : Result :=
  usingCp1 s (reading s [.fpr fs] (completeLoad (writeX s rt (readF s fs)) (.gpr rt)))

/-- `mtc1` (R208): `f[fs] <- x[rt]`, sets `ld` as a load does (70_reset_and_hazards.md R256). -/
def execMtc1 (rt fs : Reg) (s : State) : Result :=
  usingCp1 s (reading s [.gpr rt] (completeLoad (writeF s fs (readX s rt)) (.fpr fs)))

end Sys2Proof.Machine
end

