-- ==== Sys2Proof/Machine/Imm.lean ====
section
/-! DEFINITION. I-type arithmetic, comparison and logic with an immediate (43_itype_alu_imm.md R160 to R167). -/

namespace Sys2Proof.Machine

/-- Register and immediate form: reads `x[rs]`, writes `x[rt]`. -/
def immOp (s : State) (rt rs : Reg) (op : Word → Word) : Result :=
  reading s [.gpr rs] (setX s rt (op (readX s rs)))

/-- `addi` (R160): the sum, or `IntegerOverflow` (40_rtype_alu.md R137). -/
def execAddi (rt rs : Reg) (imm : Imm) (s : State) : Result :=
  reading s [.gpr rs]
    (if addOverflows (readX s rs) (signedImm imm) then raise s .integerOverflow
     else setX s rt (readX s rs + signedImm imm))

/-- `addiu` (R161): the immediate is sign-extended; modulo 2^32. -/
def execAddiu (rt rs : Reg) (imm : Imm) (s : State) : Result := immOp s rt rs fun a => a + signedImm imm

/-- `slti` (R162). -/
def execSlti (rt rs : Reg) (imm : Imm) (s : State) : Result :=
  immOp s rt rs fun a => setValue (decide (a.toInt < (signedImm imm).toInt))

/-- `sltiu` (R163): the immediate is sign-extended and then taken as unsigned. -/
def execSltiu (rt rs : Reg) (imm : Imm) (s : State) : Result :=
  immOp s rt rs fun a => setValue (decide (a.toNat < (signedImm imm).toNat))

/-- `andi` (R164). -/
def execAndi (rt rs : Reg) (imm : Imm) (s : State) : Result := immOp s rt rs fun a => a &&& zeroImm imm

/-- `ori` (R165). -/
def execOri (rt rs : Reg) (imm : Imm) (s : State) : Result := immOp s rt rs fun a => a ||| zeroImm imm

/-- `xori` (R166). -/
def execXori (rt rs : Reg) (imm : Imm) (s : State) : Result := immOp s rt rs fun a => a ^^^ zeroImm imm

/-- `lui` (R167): no register is read. -/
def execLui (rt : Reg) (imm : Imm) (s : State) : Result := setX s rt (upperImm imm)

end Sys2Proof.Machine
end

