-- ==== Sys2Proof/Machine/Jump.lean ====
section
/-! DEFINITION. Jumps (42_rtype_jump_system.md R150, R151, 46_jtype.md R195, R196). A jump in a delay slot is refused
(10_state.md R32 (a)). A misaligned `jr` or `jalr` target faults at the fetch, in the next step (10_state.md R35). -/

namespace Sys2Proof.Machine

/-- `jr` (R150): `Branch(x[rs])`, the whole value. -/
def execJr (rs : Reg) (s : State) : Result :=
  transferring s (reading s [.gpr rs] (.next (branchTo s (readX s rs))))

/-- `jalr` (R151): the target is read before the link is written, also when `rd = rs` (log 20). -/
def execJalr (rd rs : Reg) (s : State) : Result :=
  transferring s (reading s [.gpr rs] (.next (branchTo (writeX s rd (linkAddr s)) (readX s rs))))

/-- `j` (R195). -/
def execJ (target : Target) (s : State) : Result :=
  transferring s (.next (branchTo s (jumpTarget s.pc target)))

/-- `jal` (R196): links register 31. -/
def execJal (target : Target) (s : State) : Result :=
  transferring s (.next (branchTo (writeX s 31#5 (linkAddr s)) (jumpTarget s.pc target)))

end Sys2Proof.Machine
end

