-- ==== Sys2Proof/Machine/LoadStore.lean ====
section
/-! DEFINITION. Loads and stores (45_itype_load_store.md R180 to R190, 20_memory.md R58). The base register is never
modified; the checks stand in the order of R190. -/

namespace Sys2Proof.Machine

/-- `lb` (R180). -/
def execLb (rt : Reg) (imm : Imm) (rs : Reg) (s : State) : Result :=
  reading s [.gpr rs] (loadX s rt (effectiveAddress (readX s rs) imm) 1 signExtendBytes)

/-- `lh` (R181). -/
def execLh (rt : Reg) (imm : Imm) (rs : Reg) (s : State) : Result :=
  reading s [.gpr rs] (loadX s rt (effectiveAddress (readX s rs) imm) 2 signExtendBytes)

/-- `lw` (R182). -/
def execLw (rt : Reg) (imm : Imm) (rs : Reg) (s : State) : Result :=
  reading s [.gpr rs] (loadX s rt (effectiveAddress (readX s rs) imm) 4 zeroExtendBytes)

/-- `lbu` (R183). -/
def execLbu (rt : Reg) (imm : Imm) (rs : Reg) (s : State) : Result :=
  reading s [.gpr rs] (loadX s rt (effectiveAddress (readX s rs) imm) 1 zeroExtendBytes)

/-- `lhu` (R184). -/
def execLhu (rt : Reg) (imm : Imm) (rs : Reg) (s : State) : Result :=
  reading s [.gpr rs] (loadX s rt (effectiveAddress (readX s rs) imm) 2 zeroExtendBytes)

/-- `sb` (R185): stores `x[rt][7:0]`. -/
def execSb (rt : Reg) (imm : Imm) (rs : Reg) (s : State) : Result :=
  reading s [.gpr rs, .gpr rt] (store s (effectiveAddress (readX s rs) imm) 1 (readX s rt))

/-- `sh` (R186): stores `x[rt][15:0]`. -/
def execSh (rt : Reg) (imm : Imm) (rs : Reg) (s : State) : Result :=
  reading s [.gpr rs, .gpr rt] (store s (effectiveAddress (readX s rs) imm) 2 (readX s rt))

/-- `sw` (R187). -/
def execSw (rt : Reg) (imm : Imm) (rs : Reg) (s : State) : Result :=
  reading s [.gpr rs, .gpr rt] (store s (effectiveAddress (readX s rs) imm) 4 (readX s rt))

/-- `lwc1` (R188): the 32 bits are copied unchanged into `f[ft]`. -/
def execLwc1 (ft : Reg) (imm : Imm) (rs : Reg) (s : State) : Result :=
  usingCp1 s (reading s [.gpr rs]
    (load s (effectiveAddress (readX s rs) imm) 4 fun v => completeLoad (writeF s ft (zeroExtendBytes 4 v)) (.fpr ft)))

/-- `swc1` (R189): the pattern of `f[ft]` is stored unchanged. -/
def execSwc1 (ft : Reg) (imm : Imm) (rs : Reg) (s : State) : Result :=
  usingCp1 s (reading s [.gpr rs, .fpr ft] (store s (effectiveAddress (readX s rs) imm) 4 (readF s ft)))

end Sys2Proof.Machine
end

