-- ==== Sys2Proof/Machine/MulDiv.lean ====
section
/-! DEFINITION. Multiply, divide and the moves to and from `HI` and `LO` (41_rtype_muldiv.md R140 to R147). None writes a
general register but `mfhi` and `mflo`, and none raises an exception. -/

namespace Sys2Proof.Machine

/-- The high word of a 64-bit product. -/
def highWord (p : BitVec 64) : Word := p.extractLsb' 32 32

/-- The low word of a 64-bit product. -/
def lowWord (p : BitVec 64) : Word := p.extractLsb' 0 32

/-- The signed product as a 64-bit pattern (R140). -/
def signedProduct (a b : Word) : BitVec 64 := BitVec.ofInt 64 (a.toInt * b.toInt)

/-- The unsigned product, less than 2^64 (R141). -/
def unsignedProduct (a b : Word) : BitVec 64 := BitVec.ofNat 64 (a.toNat * b.toNat)

/-- The pair (`HI`, `LO`) of `div` (R142): remainder and quotient, truncated toward zero; `DIV_RESULT` for a zero divisor
and for -2^31 divided by -1. -/
def divPair (a b : Word) : Word × Word :=
  let n := a.toInt
  let d := b.toInt
  if d = 0 ∨ (n = -2147483648 ∧ d = -1) then Config.divResult .div a b
  else
    let q := n.tdiv d
    (BitVec.ofInt 32 (n - q * d), BitVec.ofInt 32 q)

/-- The pair (`HI`, `LO`) of `divu` (R143): remainder and floor quotient; `DIV_RESULT` for a zero divisor. -/
def divuPair (a b : Word) : Word × Word :=
  let n := a.toNat
  let d := b.toNat
  if d = 0 then Config.divResult .divu a b else (BitVec.ofNat 32 (n % d), BitVec.ofNat 32 (n / d))

/-- `mult` (R140). -/
def execMult (rs rt : Reg) (s : State) : Result :=
  reading s [.gpr rs, .gpr rt]
    (setHiLo s (highWord (signedProduct (readX s rs) (readX s rt))) (lowWord (signedProduct (readX s rs) (readX s rt))))

/-- `multu` (R141). -/
def execMultu (rs rt : Reg) (s : State) : Result :=
  reading s [.gpr rs, .gpr rt]
    (setHiLo s (highWord (unsignedProduct (readX s rs) (readX s rt)))
      (lowWord (unsignedProduct (readX s rs) (readX s rt))))

/-- `div` (R142). -/
def execDiv (rs rt : Reg) (s : State) : Result :=
  reading s [.gpr rs, .gpr rt]
    (setHiLo s (divPair (readX s rs) (readX s rt)).1 (divPair (readX s rs) (readX s rt)).2)

/-- `divu` (R143). -/
def execDivu (rs rt : Reg) (s : State) : Result :=
  reading s [.gpr rs, .gpr rt]
    (setHiLo s (divuPair (readX s rs) (readX s rt)).1 (divuPair (readX s rs) (readX s rt)).2)

/-- `mfhi` (R144). -/
def execMfhi (rd : Reg) (s : State) : Result := setX s rd s.hi

/-- `mthi` (R145): `LO` is unchanged (log 19). -/
def execMthi (rs : Reg) (s : State) : Result := reading s [.gpr rs] (setHiLo s (readX s rs) s.lo)

/-- `mflo` (R146). -/
def execMflo (rd : Reg) (s : State) : Result := setX s rd s.lo

/-- `mtlo` (R147): `HI` is unchanged (log 19). -/
def execMtlo (rs : Reg) (s : State) : Result := reading s [.gpr rs] (setHiLo s s.hi (readX s rs))

end Sys2Proof.Machine
end

