-- ==== Sys2Proof/Machine/Shift.lean ====
section
/-! DEFINITION. R-type shifts (40_rtype_alu.md R130 to R135, 30_encoding.md R99). The value shifted is `x[rt]`. -/

namespace Sys2Proof.Machine

/-- A shift by the constant `sa`: reads `x[rt]`, writes `x[rd]`. -/
def shiftConst (s : State) (rd rt : Reg) (sa : Shamt) (op : Word → Nat → Word) : Result :=
  reading s [.gpr rt] (setX s rd (op (readX s rt) sa.toNat))

/-- A shift by the low five bits of `x[rs]` (R133). -/
def shiftVar (s : State) (rd rt rs : Reg) (op : Word → Nat → Word) : Result :=
  reading s [.gpr rt, .gpr rs] (setX s rd (op (readX s rt) (shiftAmount (readX s rs))))

/-- `sll` (R130): zeros enter at bit 0. -/
def execSll (rd rt : Reg) (sa : Shamt) (s : State) : Result := shiftConst s rd rt sa fun v n => v <<< n

/-- `srl` (R131): zeros enter at bit 31. -/
def execSrl (rd rt : Reg) (sa : Shamt) (s : State) : Result := shiftConst s rd rt sa fun v n => v >>> n

/-- `sra` (R132): copies of bit 31 enter at bit 31. -/
def execSra (rd rt : Reg) (sa : Shamt) (s : State) : Result := shiftConst s rd rt sa fun v n => v.sshiftRight n

/-- `sllv` (R133). -/
def execSllv (rd rt rs : Reg) (s : State) : Result := shiftVar s rd rt rs fun v n => v <<< n

/-- `srlv` (R134). -/
def execSrlv (rd rt rs : Reg) (s : State) : Result := shiftVar s rd rt rs fun v n => v >>> n

/-- `srav` (R135). -/
def execSrav (rd rt rs : Reg) (s : State) : Result := shiftVar s rd rt rs fun v n => v.sshiftRight n

end Sys2Proof.Machine
end

