-- ==== Sys2Proof/Machine/System.lean ====
section
/-! DEFINITION. `syscall` and `break` (42_rtype_jump_system.md R152, R153): each always raises its exception, which the spec
makes the end of the run (60_exceptions.md R224, R228, R229, R234). No register is read or written. -/

namespace Sys2Proof.Machine

/-- `syscall` (R152): `raise Syscall()`. -/
def execSyscall (s : State) : Result := raise s .syscall

/-- `break` (R153): `raise Breakpoint()`. -/
def execBreak (s : State) : Result := raise s .breakpoint

end Sys2Proof.Machine
end

