-- ==== Sys2Proof/Machine/Fetch.lean ====
section
/-! DEFINITION. Steps 1 to 3 of a step (10_state.md R30): the fetch and the decode, in the priority of 60_exceptions.md
R223; and placing an instruction word where the next step fetches it. -/

namespace Sys2Proof.Machine

/-- What fetch and decode give: an instruction to execute, or a stop. -/
inductive Fetched where
  | run (i : Instr)
  | stop (o : Result)
deriving Repr

/-- Step 3 of R30 for a fetched word: coprocessor usability, then decode (30_encoding.md R102, 60_exceptions.md R227,
R231). -/
def decodeFetched (s : State) (w : Word) : Fetched :=
  if !s.params.cp1Usable && isCop1Word w then .stop (raise s (.coprocessorUnusable 1))
  else
    match decode s.params.strictUnused w with
    | .instr i => .run i
    | .reserved => .stop (raise s (.reservedInstruction w))
    | .unusedField => .stop (.refused (.unusedFieldNotZero w))

/-- Steps 1 to 3 of R30: alignment (20_memory.md R56), allocation (R60), `TEXT` (R68), the four bytes (R55, 10_state.md
R40), then the decode. -/
def fetchInstr (s : State) : Fetched :=
  if aligned s.pc 4 then
    if allIn s.params.memAlloc s.pc 4 then
      if allIn s.params.text s.pc 4 then
        match readBytes s.mem (accessAddrs s.pc 4) with
        | some bs => decodeFetched s (wordOfBytes s.params.endian bs)
        | none => .stop (.fault (.noValue s.pc))
      else .stop (.refused (.fetchOutsideText s.pc))
    else .stop (raise s (.unallocatedAccess s.pc))
  else .stop (raise s (.addressErrorFetch s.pc))

/-- The set with the four addresses from `a` on, unless it holds them (20_memory.md R60). -/
def coverWord (l : AddrSet) (a : Word) : AddrSet := if allIn l a 4 then l else ⟨a.toNat, 4⟩ :: l

/-- The word `w` placed at `pc` in the byte order of the run (70_reset_and_hazards.md R250, 20_memory.md R55); `MEM_ALLOC`
and `TEXT` gain those four addresses where they lack one (R252; log 25). -/
def placeWord (s : State) (w : Word) : State :=
  { s with
    mem := writeBytes s.mem (accessAddrs s.pc 4) (splitBytes s.params.endian 4 w.toNat)
    params := { s.params with
      memAlloc := coverWord s.params.memAlloc s.pc
      text := coverWord s.params.text s.pc } }

end Sys2Proof.Machine
end

