-- ==== Sys2Proof/Machine/Step.lean ====
section
/-! DEFINITION. One step of the machine (10_state.md R30). -/

namespace Sys2Proof.Machine

/-- Fetch, decode and execute one instruction (R30). -/
def step (s : State) : Host.Outcome State Fault Refusal :=
  match fetchInstr s with
  | .run i => exec i s
  | .stop o => o

/-- `s` with the instruction whose low `nbits` bits are `w`, every other bit 0, stored where `step` fetches next (log 25). -/
def State.withFetchWord (s : State) (nbits w : Nat) : State :=
  placeWord s (BitVec.ofNat 32 (w % 2 ^ min nbits 32))

end Sys2Proof.Machine
end

