-- ==== Sys2Proof/Safety.lean ====
section
/-! DEFINITION. The terms claims are made in: how a run ends (60_exceptions.md R234), the invariant of the state, what
an instruction reads and loads, and what it changes and leaves alone. -/

namespace Sys2Proof.Machine

/-! ## How a run ends -/

/-- An environment stop: the program asked for it; any other cause is a fault (60_exceptions.md R234). -/
def Cause.isEnvironmentStop : Cause → Bool
  | .syscall => true
  | .breakpoint => true
  | .integerOverflow => false
  | .reservedInstruction _ => false
  | .coprocessorUnusable _ => false
  | .addressErrorFetch _ => false
  | .addressErrorLoad _ => false
  | .addressErrorStore _ => false
  | .unallocatedAccess _ => false

/-- The step is no `Next`: the run ends here (60_exceptions.md R220, R234). -/
def endsRun : Result → Bool
  | .next _ => false
  | .fault _ => true
  | .refused _ => true

/-- The parameters are as a launch needs them: `ENTRY` a multiple of 4 inside `TEXT`, `TEXT` inside `MEM_ALLOC`
(00_scope.md R5, 70_reset_and_hazards.md R252 items 1 and 3). -/
def launchable (p : Params) : Prop :=
  aligned p.entry 4 = true ∧ allIn p.text p.entry 4 = true ∧ ∀ a, inSet p.text a = true → inSet p.memAlloc a = true

/-! ## The invariant -/

/-- What holds in every state of a run: memory in canonical form (20_memory.md R50), the stored `x[0]` zero
(10_state.md R21), `ld` never `x[0]` and empty without `LOAD_DELAY` (70_reset_and_hazards.md R256; for `mfc1` to `x[0]`
log 34). -/
structure Inv (s : State) : Prop where
  mem_wf : Memory.wf s.mem = true
  x_zero : s.x[0] = 0#32
  ld_not_x0 : s.ld ≠ some (.gpr 0#5)
  ld_off : s.params.loadDelay = false → s.ld = none

/-! ## What an instruction reads and loads -/

/-- The registers an instruction reads as operands (10_state.md R23, 70_reset_and_hazards.md R256). -/
def sources : Instr → List RegName
  | .sll _ rt _ | .srl _ rt _ | .sra _ rt _ => [.gpr rt]
  | .sllv _ rt rs | .srlv _ rt rs | .srav _ rt rs => [.gpr rt, .gpr rs]
  | .jr rs | .jalr _ rs | .mthi rs | .mtlo rs => [.gpr rs]
  | .syscall | .breakpoint | .mfhi _ | .mflo _ | .j _ | .jal _ | .lui _ _ => []
  | .mult rs rt | .multu rs rt | .div rs rt | .divu rs rt => [.gpr rs, .gpr rt]
  | .add _ rs rt | .addu _ rs rt | .sub _ rs rt | .subu _ rs rt | .and _ rs rt | .or _ rs rt | .xor _ rs rt
  | .nor _ rs rt | .slt _ rs rt | .sltu _ rs rt => [.gpr rs, .gpr rt]
  | .beq rs rt _ | .bne rs rt _ => [.gpr rs, .gpr rt]
  | .bltz rs _ | .bgez rs _ | .blez rs _ | .bgtz rs _ => [.gpr rs]
  | .addi _ rs _ | .addiu _ rs _ | .slti _ rs _ | .sltiu _ rs _ | .andi _ rs _ | .ori _ rs _ | .xori _ rs _ => [.gpr rs]
  | .lb _ _ rs | .lh _ _ rs | .lw _ _ rs | .lbu _ _ rs | .lhu _ _ rs | .lwc1 _ _ rs => [.gpr rs]
  | .sb rt _ rs | .sh rt _ rs | .sw rt _ rs => [.gpr rs, .gpr rt]
  | .swc1 ft _ rs => [.gpr rs, .fpr ft]
  | .addS _ fs ft | .subS _ fs ft | .mulS _ fs ft | .divS _ fs ft => [.fpr fs, .fpr ft]
  | .movS _ fs | .cvtSW _ fs | .cvtWS _ fs | .mfc1 _ fs => [.fpr fs]
  | .mtc1 rt _ => [.gpr rt]

/-- The register that `ld` is set to: the destination of a load, of `mfc1` and of `mtc1`; "A load to `x[0]` sets no `ld`"
(70_reset_and_hazards.md R256). That `mfc1` with `rt = 0` sets none either is the model's choice (log 34). -/
def loadedBy : Instr → Option RegName
  | .lb rt _ _ | .lh rt _ _ | .lw rt _ _ | .lbu rt _ _ | .lhu rt _ _ | .mfc1 rt _ =>
    if rt = 0#5 then none else some (.gpr rt)
  | .lwc1 ft _ _ => some (.fpr ft)
  | .mtc1 _ fs => some (.fpr fs)
  | .sll .. | .srl .. | .sra .. | .sllv .. | .srlv .. | .srav .. | .jr .. | .jalr .. | .syscall | .breakpoint => none
  | .mfhi .. | .mthi .. | .mflo .. | .mtlo .. | .mult .. | .multu .. | .div .. | .divu .. => none
  | .add .. | .addu .. | .sub .. | .subu .. | .and .. | .or .. | .xor .. | .nor .. | .slt .. | .sltu .. => none
  | .bltz .. | .bgez .. | .beq .. | .bne .. | .blez .. | .bgtz .. => none
  | .addi .. | .addiu .. | .slti .. | .sltiu .. | .andi .. | .ori .. | .xori .. | .lui .. => none
  | .sb .. | .sh .. | .sw .. | .swc1 .. | .j .. | .jal .. => none
  | .addS .. | .subS .. | .mulS .. | .divS .. | .movS .. | .cvtSW .. | .cvtWS .. => none

/-- The nine instructions of 47_cp1_float.md with `lwc1` and `swc1` (60_exceptions.md R221). -/
def usesCp1 : Instr → Bool
  | .addS .. | .subS .. | .mulS .. | .divS .. | .movS .. | .cvtSW .. | .cvtWS .. | .mfc1 .. | .mtc1 .. => true
  | .lwc1 .. | .swc1 .. => true
  | .sll .. | .srl .. | .sra .. | .sllv .. | .srlv .. | .srav .. | .jr .. | .jalr .. | .syscall | .breakpoint => false
  | .mfhi .. | .mthi .. | .mflo .. | .mtlo .. | .mult .. | .multu .. | .div .. | .divu .. => false
  | .add .. | .addu .. | .sub .. | .subu .. | .and .. | .or .. | .xor .. | .nor .. | .slt .. | .sltu .. => false
  | .bltz .. | .bgez .. | .beq .. | .bne .. | .blez .. | .bgtz .. => false
  | .addi .. | .addiu .. | .slti .. | .sltiu .. | .andi .. | .ori .. | .xori .. | .lui .. => false
  | .lb .. | .lh .. | .lw .. | .lbu .. | .lhu .. | .sb .. | .sh .. | .sw .. | .j .. | .jal .. => false

/-- No register of the list was loaded by the instruction before (70_reset_and_hazards.md R256). -/
abbrev NoLoadedUse (s : State) (reads : List RegName) : Prop :=
  s.params.loadDelay = true → ∀ r ∈ reads, s.ld ≠ some r

/-- The current instruction is in no delay slot (10_state.md R26, R32). -/
abbrev NotInSlot (s : State) : Prop := ¬(s.params.branchDelay = true ∧ s.ds = true)

/-- The state of the same machine without the load delay: no `ld` (70_reset_and_hazards.md R256). -/
def withoutLoadDelay (s : State) : State := { s with ld := none, params := { s.params with loadDelay := false } }

/-- The state of the same machine without the branch delay (70_reset_and_hazards.md R255). -/
def withoutBranchDelay (s : State) : State := { s with params := { s.params with branchDelay := false } }

/-! ## Data accesses -/

/-- The access of a load or store: direction, base register, displacement and width in bytes (20_memory.md R58, R67). -/
structure DataAccess where
  store : Bool
  base : Reg
  imm : Imm
  bytes : Nat
deriving DecidableEq, Repr

/-- The ten memory instructions and their accesses (20_memory.md R58). -/
def dataAccess : Instr → Option DataAccess
  | .lb _ imm rs | .lbu _ imm rs => some ⟨false, rs, imm, 1⟩
  | .lh _ imm rs | .lhu _ imm rs => some ⟨false, rs, imm, 2⟩
  | .lw _ imm rs | .lwc1 _ imm rs => some ⟨false, rs, imm, 4⟩
  | .sb _ imm rs => some ⟨true, rs, imm, 1⟩
  | .sh _ imm rs => some ⟨true, rs, imm, 2⟩
  | .sw _ imm rs | .swc1 _ imm rs => some ⟨true, rs, imm, 4⟩
  | .sll .. | .srl .. | .sra .. | .sllv .. | .srlv .. | .srav .. | .jr .. | .jalr .. | .syscall | .breakpoint => none
  | .mfhi .. | .mthi .. | .mflo .. | .mtlo .. | .mult .. | .multu .. | .div .. | .divu .. => none
  | .add .. | .addu .. | .sub .. | .subu .. | .and .. | .or .. | .xor .. | .nor .. | .slt .. | .sltu .. => none
  | .bltz .. | .bgez .. | .beq .. | .bne .. | .blez .. | .bgtz .. => none
  | .addi .. | .addiu .. | .slti .. | .sltiu .. | .andi .. | .ori .. | .xori .. | .lui .. | .j .. | .jal .. => none
  | .addS .. | .subS .. | .mulS .. | .divS .. | .movS .. | .cvtSW .. | .cvtWS .. | .mfc1 .. | .mtc1 .. => none

/-- `ea` of an access (20_memory.md R67). -/
def accessAddress (s : State) (a : DataAccess) : Word := readX s a.base + a.imm.signExtend 32

/-- Every one of the `n` bytes from `a` on, modulo 2^32, is in the set. -/
abbrev AllBytesIn (l : AddrSet) (a : Word) (n : Nat) : Prop :=
  ∀ k, k < n → inSet l (a + BitVec.ofNat 32 k).toNat = true

/-- No byte of the `n` bytes from `a` on is in the set. -/
abbrev NoByteIn (l : AddrSet) (a : Word) (n : Nat) : Prop :=
  ∀ k, k < n → inSet l (a + BitVec.ofNat 32 k).toNat = false

/-- The instruction's guards let it act: coprocessor 1 usable if it needs it, no register just loaded (60_exceptions.md
R231, 70_reset_and_hazards.md R256). -/
def MayAccess (i : Instr) (s : State) : Prop :=
  (usesCp1 i = true → s.params.cp1Usable = true) ∧ NoLoadedUse s (sources i)

/-! ## Fetch and causes -/

/-- The word a fetch at `pc` reads: `pc` a multiple of 4, its four bytes in `MEM_ALLOC` and in `TEXT` and holding values
(20_memory.md R55, R56, R60, R68). -/
def fetchedWord (s : State) : Option Word :=
  if aligned s.pc 4 && allIn s.params.memAlloc s.pc 4 && allIn s.params.text s.pc 4 then
    (readBytes s.mem (accessAddrs s.pc 4)).map (wordOfBytes s.params.endian)
  else none

/-- The word's opcode is one of the three whose `CoprocessorUnusable` check comes before the decode (60_exceptions.md
R231). -/
abbrev IsCp1Opcode (w : Word) : Prop := opcodeOf w ∈ [0x11#6, 0x31#6, 0x39#6]

/-- Coprocessor 1 is usable, or the word does not need it (60_exceptions.md R231). -/
abbrev Cp1Allows (s : State) (w : Word) : Prop := s.params.cp1Usable = true ∨ ¬IsCp1Opcode w

/-- The step at `s` executes `i`: the fetched word decodes to it and coprocessor 1 is usable if the word needs it
(10_state.md R30). -/
def Runs (s : State) (i : Instr) : Prop :=
  ∃ w, fetchedWord s = some w ∧ Cp1Allows s w ∧ decode s.params.strictUnused w = .instr i

/-- `i` is one of the three instructions that report signed overflow, and its operands at `s` overflow (60_exceptions.md
R225, 40_rtype_alu.md R137). -/
def SignedOverflow (s : State) (i : Instr) : Prop :=
  (∃ rd rs rt, i = .add rd rs rt ∧ addOverflows (readX s rs) (readX s rt) = true) ∨
  (∃ rt rs imm, i = .addi rt rs imm ∧ addOverflows (readX s rs) (signedImm imm) = true) ∨
  ∃ rd rs rt, i = .sub rd rs rt ∧ subOverflows (readX s rs) (readX s rt) = true

/-- What must hold of a state whose step stops with a cause: the columns "Raised by", "When" and `info` of
60_exceptions.md R221. -/
def Justified (s : State) : Cause → Prop
  | .integerOverflow => ∃ i, Runs s i ∧ SignedOverflow s i
  | .syscall => Runs s .syscall
  | .breakpoint => Runs s .breakpoint
  | .reservedInstruction w => fetchedWord s = some w ∧ decode s.params.strictUnused w = .reserved
  | .coprocessorUnusable n =>
    n = 1 ∧ s.params.cp1Usable = false ∧ ∃ w, fetchedWord s = some w ∧ IsCp1Opcode w
  | .addressErrorFetch a => a = s.pc ∧ s.pc.toNat % 4 ≠ 0
  | .addressErrorLoad a =>
    ∃ i acc, Runs s i ∧ dataAccess i = some acc ∧ acc.store = false ∧ a = accessAddress s acc ∧ a.toNat % acc.bytes ≠ 0
  | .addressErrorStore a =>
    ∃ i acc, Runs s i ∧ dataAccess i = some acc ∧ acc.store = true ∧ a = accessAddress s acc ∧ a.toNat % acc.bytes ≠ 0
  | .unallocatedAccess a =>
    (a = s.pc ∧ ¬AllBytesIn s.params.memAlloc s.pc 4) ∨
    ∃ i acc, Runs s i ∧ dataAccess i = some acc ∧ a = accessAddress s acc ∧
      ¬AllBytesIn s.params.memAlloc a acc.bytes

/-- The 36 unassigned function codes (30_encoding.md R88). -/
def reservedFuncts : List (BitVec 6) :=
  [0x01#6, 0x05#6, 0x0A#6, 0x0B#6, 0x0E#6, 0x0F#6, 0x14#6, 0x15#6, 0x16#6, 0x17#6, 0x1C#6, 0x1D#6, 0x1E#6, 0x1F#6] ++
  [0x28#6, 0x29#6, 0x2C#6, 0x2D#6, 0x2E#6, 0x2F#6] ++
  [0x30#6, 0x31#6, 0x32#6, 0x33#6, 0x34#6, 0x35#6, 0x36#6, 0x37#6] ++
  [0x38#6, 0x39#6, 0x3A#6, 0x3B#6, 0x3C#6, 0x3D#6, 0x3E#6, 0x3F#6]

/-- The 34 opcodes that no table lists (30_encoding.md R100, item 6). -/
def reservedOpcodes : List (BitVec 6) :=
  [0x14#6, 0x15#6, 0x16#6, 0x17#6, 0x18#6, 0x19#6, 0x1A#6, 0x1B#6, 0x1C#6, 0x1D#6, 0x1E#6, 0x1F#6] ++
  [0x22#6, 0x26#6, 0x27#6, 0x2A#6, 0x2C#6, 0x2D#6, 0x2E#6, 0x2F#6, 0x30#6] ++
  [0x32#6, 0x33#6, 0x34#6, 0x35#6, 0x36#6, 0x37#6, 0x38#6] ++
  [0x3A#6, 0x3B#6, 0x3C#6, 0x3D#6, 0x3E#6, 0x3F#6]

/-- The nine pairs (`fmt`, `funct`) of 30_encoding.md R93. -/
def cop1Pairs : List (BitVec 5 × BitVec 6) :=
  [(0x10#5, 0x00#6), (0x10#5, 0x01#6), (0x10#5, 0x02#6), (0x10#5, 0x03#6), (0x10#5, 0x06#6), (0x14#5, 0x20#6),
   (0x10#5, 0x24#6), (0x00#5, 0x00#6), (0x04#5, 0x00#6)]

/-- The selector of the word is in no table (30_encoding.md R100, items 1 to 6). -/
def ReservedSelector (w : Word) : Prop :=
  (opcodeOf w = 0x00#6 ∧ functOf w ∈ reservedFuncts) ∨
  (opcodeOf w = 0x01#6 ∧ rtOf w ≠ 0x00#5 ∧ rtOf w ≠ 0x01#5) ∨
  (opcodeOf w ∈ [0x06#6, 0x07#6] ∧ rtOf w ≠ 0x00#5) ∨
  opcodeOf w ∈ [0x10#6, 0x12#6, 0x13#6] ∨
  (opcodeOf w = 0x11#6 ∧ (rsOf w, functOf w) ∉ cop1Pairs) ∨
  opcodeOf w ∈ reservedOpcodes

/-! ## What changes and what does not -/

/-- Every byte of memory reads as before. -/
def MemSame (s t : State) : Prop := ∀ a, Memory.read t.mem a = Memory.read s.mem a

/-- Every general register reads as before. -/
def GprsSame (s t : State) : Prop := ∀ r, readX t r = readX s r

/-- Every floating-point register reads as before. -/
def FprsSame (s t : State) : Prop := ∀ r, readF t r = readF s r

/-- `HI` and `LO` are as before. -/
def HiLoSame (s t : State) : Prop := t.hi = s.hi ∧ t.lo = s.lo

/-- `ld` after an instruction that loaded `loaded` (70_reset_and_hazards.md R256). -/
def LdIs (s t : State) (loaded : Option RegName) : Prop :=
  t.ld = if s.params.loadDelay = true then loaded else none

/-- `pc`, `npc`, `ds` and `ld` after `NextInstr` of an instruction that is no control transfer (10_state.md R30). -/
def WentOn (s t : State) (loaded : Option RegName) : Prop :=
  (s.params.branchDelay = false → t.pc = s.pc + 4#32 ∧ t.npc = s.npc ∧ t.ds = s.ds) ∧
  (s.params.branchDelay = true → t.pc = s.npc ∧ t.npc = s.npc + 4#32 ∧ t.ds = false) ∧ LdIs s t loaded

/-- `pc`, `npc`, `ds` and `ld` after a conditional branch that is not taken (10_state.md R30, R32). -/
def WentPast (s t : State) : Prop :=
  (s.params.branchDelay = false → t.pc = s.pc + 4#32 ∧ t.npc = s.npc ∧ t.ds = s.ds) ∧
  (s.params.branchDelay = true → t.pc = s.npc ∧ t.npc = s.npc + 4#32 ∧ t.ds = true) ∧ LdIs s t none

/-- `pc`, `npc`, `ds` and `ld` after `Branch(target)` (10_state.md R31, R32). -/
def WentTo (s t : State) (target : Word) : Prop :=
  (s.params.branchDelay = false → t.pc = target ∧ t.npc = s.npc ∧ t.ds = s.ds) ∧
  (s.params.branchDelay = true → t.pc = s.npc ∧ t.npc = target ∧ t.ds = true) ∧ LdIs s t none

/-- The instruction completes; general register `rd` holds `v` after it (0 if `rd` is register 0), every other register,
`HI`, `LO`, every byte of memory and the parameters are as before, and `pc` goes on with `NextInstr`. -/
def WritesX (i : Instr) (s : State) (rd : Reg) (v : Word) (loaded : Option RegName) : Prop :=
  ∃ t, exec i s = .next t ∧ readX t rd = (if rd = 0#5 then 0#32 else v) ∧ (∀ r, r ≠ rd → readX t r = readX s r) ∧
    FprsSame s t ∧ HiLoSame s t ∧ MemSame s t ∧ t.params = s.params ∧ WentOn s t loaded

/-- The instruction completes; floating-point register `fd` holds `v` after it and nothing else changes but `pc`. -/
def WritesF (i : Instr) (s : State) (fd : Reg) (v : Word) (loaded : Option RegName) : Prop :=
  ∃ t, exec i s = .next t ∧ readF t fd = v ∧ (∀ r, r ≠ fd → readF t r = readF s r) ∧
    GprsSame s t ∧ HiLoSame s t ∧ MemSame s t ∧ t.params = s.params ∧ WentOn s t loaded

/-- The instruction completes; `HI` and `LO` satisfy `post` after it and nothing else changes but `pc`. -/
def WritesHiLo (i : Instr) (s : State) (post : Word → Word → Prop) : Prop :=
  ∃ t, exec i s = .next t ∧ post t.hi t.lo ∧ GprsSame s t ∧ FprsSame s t ∧ MemSame s t ∧ t.params = s.params ∧
    WentOn s t none

/-- The instruction completes, goes to `target` and writes no register and no memory. -/
def Jumps (i : Instr) (s : State) (target : Word) : Prop :=
  ∃ t, exec i s = .next t ∧ GprsSame s t ∧ FprsSame s t ∧ HiLoSame s t ∧ MemSame s t ∧ t.params = s.params ∧
    WentTo s t target

/-- The instruction completes, goes to `target` and writes general register `rd` alone. -/
def JumpsAndLinks (i : Instr) (s : State) (target : Word) (rd : Reg) (link : Word) : Prop :=
  ∃ t, exec i s = .next t ∧ readX t rd = (if rd = 0#5 then 0#32 else link) ∧ (∀ r, r ≠ rd → readX t r = readX s r) ∧
    FprsSame s t ∧ HiLoSame s t ∧ MemSame s t ∧ t.params = s.params ∧ WentTo s t target

/-- The branch completes without going to its target and writes nothing. -/
def FallsThrough (i : Instr) (s : State) : Prop :=
  ∃ t, exec i s = .next t ∧ GprsSame s t ∧ FprsSame s t ∧ HiLoSame s t ∧ MemSame s t ∧ t.params = s.params ∧
    WentPast s t

/-- The branch is taken to its target when `cond` holds and falls through when it does not. -/
def BranchesOn (i : Instr) (s : State) (imm : Imm) (cond : Prop) : Prop :=
  (cond → Jumps i s (branchTarget s.pc imm)) ∧ (¬cond → FallsThrough i s)

/-- Byte `k` of the `n` bytes that hold the low `n` bytes of `v` (20_memory.md R54). -/
def storedByte (e : Endian) (n : Nat) (v : Word) (k : Nat) : Byte :=
  match e with
  | .little => v.extractLsb' (8 * k) 8
  | .big => v.extractLsb' (8 * (n - 1 - k)) 8

/-- The instruction completes; the `n` bytes from `ea` on hold the low `n` bytes of `v` by `ENDIAN`, every other byte of
memory reads as before, no register changes, and `pc` goes on with `NextInstr`. -/
def Stores (i : Instr) (s : State) (ea : Word) (n : Nat) (v : Word) : Prop :=
  ∃ t, exec i s = .next t ∧
    (∀ k, k < n → Memory.read t.mem (ea + BitVec.ofNat 32 k).toNat = some (storedByte s.params.endian n v k)) ∧
    (∀ a, (∀ k, k < n → a ≠ (ea + BitVec.ofNat 32 k).toNat) → Memory.read t.mem a = Memory.read s.mem a) ∧
    GprsSame s t ∧ FprsSame s t ∧ HiLoSame s t ∧ t.params = s.params ∧ WentOn s t none

/-- `Stopped(cause, epc, in_delay_slot, info, state)` as 60_exceptions.md R224 fixes it: the state is unchanged; `epc` is
`pc`, or `pc - 4` in a delay slot. -/
def StopsWith (o : Result) (s : State) (c : Cause) : Prop :=
  (NotInSlot s → o = .fault (.stopped c s.pc false s)) ∧
  (¬NotInSlot s → o = .fault (.stopped c (s.pc - 4#32) true s))

/-- The instruction stops with the cause. -/
def Stops (i : Instr) (s : State) (c : Cause) : Prop := StopsWith (exec i s) s c

/-! ## Floating point -/

/-- Zero, subnormal or normal (47_cp1_float.md R209). -/
def IsFinite (w : Word) : Prop := isNaN w = false ∧ isInf w = false

/-- How far the finite single `w` is from `num / den`, in units of 2^-149 divided by `den`. -/
def fpError (w : Word) (num : Int) (den : Nat) : Nat := (fpValue w * den - num).natAbs

/-- `w` is `num / den` (in units of 2^-149) rounded to single precision, to nearest, ties to even (47_cp1_float.md R210):
of the right sign, infinite exactly when the rounded magnitude would reach 2^128, else at least as near as every finite
single, with an even fraction if another value is as near. -/
def RoundsTo (w : Word) (num : Int) (den : Nat) : Prop :=
  isNaN w = false ∧ (num ≠ 0 → fpSign w = decide (num < 0)) ∧
  (isInf w = true ↔ (2 ^ 128 - 2 ^ 103) * 2 ^ 149 * den ≤ num.natAbs) ∧
  (isInf w = false → ∀ v, IsFinite v → fpError w num den ≤ fpError v num den ∧
    (fpError v num den = fpError w num den → fpValue v ≠ fpValue w → fpFrac w % 2 = 0))

/-- `n` is the value `v`, in units of 2^-149, rounded to a whole number (47_cp1_float.md R206). -/
def RoundsToInt (mode : CvtRounding) (v n : Int) : Prop :=
  match mode with
  | .nearestEven => (2 * (v - n * 2 ^ 149)).natAbs ≤ 2 ^ 149 ∧ ((2 * (v - n * 2 ^ 149)).natAbs = 2 ^ 149 → n % 2 = 0)
  | .towardZero => (n * 2 ^ 149).natAbs ≤ v.natAbs ∧ v.natAbs < (n * 2 ^ 149).natAbs + 2 ^ 149 ∧ 0 ≤ n * v
  | .up => (n - 1) * 2 ^ 149 < v ∧ v ≤ n * 2 ^ 149
  | .down => n * 2 ^ 149 ≤ v ∧ v < (n + 1) * 2 ^ 149

/-! ## How a word is coded -/

/-- The word of the instruction in the R format (30_encoding.md R82). -/
def CodedR (i : Instr) (rs rt rd sa : BitVec 5) (funct : BitVec 6) : Prop :=
  encode i = (0b000000#6 ++ rs ++ rt ++ rd ++ sa ++ funct : BitVec 32)

/-- The word of the instruction in the I format (30_encoding.md R83). -/
def CodedI (i : Instr) (op : BitVec 6) (rs rt : BitVec 5) (imm : BitVec 16) : Prop :=
  encode i = (op ++ rs ++ rt ++ imm : BitVec 32)

/-- The word of the instruction in the J format (30_encoding.md R84). -/
def CodedJ (i : Instr) (op : BitVec 6) (target : BitVec 26) : Prop := encode i = (op ++ target : BitVec 32)

/-- The word of the instruction in the coprocessor-1 format (30_encoding.md R85). -/
def CodedC (i : Instr) (fmt ft fs fd : BitVec 5) (funct : BitVec 6) : Prop :=
  encode i = (0b010001#6 ++ fmt ++ ft ++ fs ++ fd ++ funct : BitVec 32)

end Sys2Proof.Machine
end

