-- ==== Sys2Proof/Laws/State.lean ====
section
/-! SUPPORT. One lemma per field per update of the state, so that no proof unfolds a record update. -/

namespace Sys2Proof.Machine

@[simp] theorem writeX_hi (s : State) (r : Reg) (v : Word) : (writeX s r v).hi = s.hi := by
  unfold writeX; split <;> rfl
@[simp] theorem writeX_lo (s : State) (r : Reg) (v : Word) : (writeX s r v).lo = s.lo := by
  unfold writeX; split <;> rfl
@[simp] theorem writeX_pc (s : State) (r : Reg) (v : Word) : (writeX s r v).pc = s.pc := by
  unfold writeX; split <;> rfl
@[simp] theorem writeX_npc (s : State) (r : Reg) (v : Word) : (writeX s r v).npc = s.npc := by
  unfold writeX; split <;> rfl
@[simp] theorem writeX_ds (s : State) (r : Reg) (v : Word) : (writeX s r v).ds = s.ds := by
  unfold writeX; split <;> rfl
@[simp] theorem writeX_f (s : State) (r : Reg) (v : Word) : (writeX s r v).f = s.f := by
  unfold writeX; split <;> rfl
@[simp] theorem writeX_ld (s : State) (r : Reg) (v : Word) : (writeX s r v).ld = s.ld := by
  unfold writeX; split <;> rfl
@[simp] theorem writeX_mem (s : State) (r : Reg) (v : Word) : (writeX s r v).mem = s.mem := by
  unfold writeX; split <;> rfl
@[simp] theorem writeX_params (s : State) (r : Reg) (v : Word) : (writeX s r v).params = s.params := by
  unfold writeX; split <;> rfl

@[simp] theorem writeF_x (s : State) (r : Reg) (v : Word) : (writeF s r v).x = s.x := rfl
@[simp] theorem writeF_hi (s : State) (r : Reg) (v : Word) : (writeF s r v).hi = s.hi := rfl
@[simp] theorem writeF_lo (s : State) (r : Reg) (v : Word) : (writeF s r v).lo = s.lo := rfl
@[simp] theorem writeF_pc (s : State) (r : Reg) (v : Word) : (writeF s r v).pc = s.pc := rfl
@[simp] theorem writeF_npc (s : State) (r : Reg) (v : Word) : (writeF s r v).npc = s.npc := rfl
@[simp] theorem writeF_ds (s : State) (r : Reg) (v : Word) : (writeF s r v).ds = s.ds := rfl
@[simp] theorem writeF_ld (s : State) (r : Reg) (v : Word) : (writeF s r v).ld = s.ld := rfl
@[simp] theorem writeF_mem (s : State) (r : Reg) (v : Word) : (writeF s r v).mem = s.mem := rfl
@[simp] theorem writeF_params (s : State) (r : Reg) (v : Word) : (writeF s r v).params = s.params := rfl

@[simp] theorem writeHiLo_x (s : State) (h l : Word) : (writeHiLo s h l).x = s.x := rfl
@[simp] theorem writeHiLo_hi (s : State) (h l : Word) : (writeHiLo s h l).hi = h := rfl
@[simp] theorem writeHiLo_lo (s : State) (h l : Word) : (writeHiLo s h l).lo = l := rfl
@[simp] theorem writeHiLo_pc (s : State) (h l : Word) : (writeHiLo s h l).pc = s.pc := rfl
@[simp] theorem writeHiLo_npc (s : State) (h l : Word) : (writeHiLo s h l).npc = s.npc := rfl
@[simp] theorem writeHiLo_ds (s : State) (h l : Word) : (writeHiLo s h l).ds = s.ds := rfl
@[simp] theorem writeHiLo_f (s : State) (h l : Word) : (writeHiLo s h l).f = s.f := rfl
@[simp] theorem writeHiLo_ld (s : State) (h l : Word) : (writeHiLo s h l).ld = s.ld := rfl
@[simp] theorem writeHiLo_mem (s : State) (h l : Word) : (writeHiLo s h l).mem = s.mem := rfl
@[simp] theorem writeHiLo_params (s : State) (h l : Word) : (writeHiLo s h l).params = s.params := rfl

@[simp] theorem storeBytes_x (s : State) (a : Word) (n : Nat) (v : Word) : (storeBytes s a n v).x = s.x := rfl
@[simp] theorem storeBytes_hi (s : State) (a : Word) (n : Nat) (v : Word) : (storeBytes s a n v).hi = s.hi := rfl
@[simp] theorem storeBytes_lo (s : State) (a : Word) (n : Nat) (v : Word) : (storeBytes s a n v).lo = s.lo := rfl
@[simp] theorem storeBytes_pc (s : State) (a : Word) (n : Nat) (v : Word) : (storeBytes s a n v).pc = s.pc := rfl
@[simp] theorem storeBytes_npc (s : State) (a : Word) (n : Nat) (v : Word) : (storeBytes s a n v).npc = s.npc := rfl
@[simp] theorem storeBytes_ds (s : State) (a : Word) (n : Nat) (v : Word) : (storeBytes s a n v).ds = s.ds := rfl
@[simp] theorem storeBytes_f (s : State) (a : Word) (n : Nat) (v : Word) : (storeBytes s a n v).f = s.f := rfl
@[simp] theorem storeBytes_ld (s : State) (a : Word) (n : Nat) (v : Word) : (storeBytes s a n v).ld = s.ld := rfl
@[simp] theorem storeBytes_params (s : State) (a : Word) (n : Nat) (v : Word) : (storeBytes s a n v).params = s.params := rfl
@[simp] theorem storeBytes_mem (s : State) (a : Word) (n : Nat) (v : Word) :
    (storeBytes s a n v).mem = writeBytes s.mem (accessAddrs a n) (splitBytes s.params.endian n v.toNat) := rfl

@[simp] theorem movePc_x (s : State) (n : Word) (b : Bool) (l : Option RegName) :
    (movePc s n b l).x = s.x := by
  unfold movePc; split <;> rfl
@[simp] theorem movePc_hi (s : State) (n : Word) (b : Bool) (l : Option RegName) :
    (movePc s n b l).hi = s.hi := by
  unfold movePc; split <;> rfl
@[simp] theorem movePc_lo (s : State) (n : Word) (b : Bool) (l : Option RegName) :
    (movePc s n b l).lo = s.lo := by
  unfold movePc; split <;> rfl
@[simp] theorem movePc_pc (s : State) (n : Word) (b : Bool) (l : Option RegName) :
    (movePc s n b l).pc = if s.params.branchDelay then s.npc else n := by
  unfold movePc; split <;> rfl
@[simp] theorem movePc_npc (s : State) (n : Word) (b : Bool) (l : Option RegName) :
    (movePc s n b l).npc = if s.params.branchDelay then n else s.npc := by
  unfold movePc; split <;> rfl
@[simp] theorem movePc_ds (s : State) (n : Word) (b : Bool) (l : Option RegName) :
    (movePc s n b l).ds = if s.params.branchDelay then b else s.ds := by
  unfold movePc; split <;> rfl
@[simp] theorem movePc_f (s : State) (n : Word) (b : Bool) (l : Option RegName) :
    (movePc s n b l).f = s.f := by
  unfold movePc; split <;> rfl
@[simp] theorem movePc_ld (s : State) (n : Word) (b : Bool) (l : Option RegName) :
    (movePc s n b l).ld = nextLd s l := by
  unfold movePc; split <;> rfl
@[simp] theorem movePc_mem (s : State) (n : Word) (b : Bool) (l : Option RegName) :
    (movePc s n b l).mem = s.mem := by
  unfold movePc; split <;> rfl
@[simp] theorem movePc_params (s : State) (n : Word) (b : Bool) (l : Option RegName) :
    (movePc s n b l).params = s.params := by
  unfold movePc; split <;> rfl

@[simp] theorem nextInstr_x (s : State) (l : Option RegName) : (nextInstr s l).x = s.x := by
  simp [nextInstr]
@[simp] theorem nextInstr_hi (s : State) (l : Option RegName) : (nextInstr s l).hi = s.hi := by
  simp [nextInstr]
@[simp] theorem nextInstr_lo (s : State) (l : Option RegName) : (nextInstr s l).lo = s.lo := by
  simp [nextInstr]
@[simp] theorem nextInstr_f (s : State) (l : Option RegName) : (nextInstr s l).f = s.f := by
  simp [nextInstr]
@[simp] theorem nextInstr_mem (s : State) (l : Option RegName) : (nextInstr s l).mem = s.mem := by
  simp [nextInstr]
@[simp] theorem nextInstr_params (s : State) (l : Option RegName) : (nextInstr s l).params = s.params := by
  simp [nextInstr]
@[simp] theorem notTaken_x (s : State) : (notTaken s).x = s.x := by
  simp [notTaken]
@[simp] theorem notTaken_hi (s : State) : (notTaken s).hi = s.hi := by
  simp [notTaken]
@[simp] theorem notTaken_lo (s : State) : (notTaken s).lo = s.lo := by
  simp [notTaken]
@[simp] theorem notTaken_f (s : State) : (notTaken s).f = s.f := by
  simp [notTaken]
@[simp] theorem notTaken_mem (s : State) : (notTaken s).mem = s.mem := by
  simp [notTaken]
@[simp] theorem notTaken_params (s : State) : (notTaken s).params = s.params := by
  simp [notTaken]
@[simp] theorem branchTo_x (s : State) (w : Word) : (branchTo s w).x = s.x := by
  simp [branchTo]
@[simp] theorem branchTo_hi (s : State) (w : Word) : (branchTo s w).hi = s.hi := by
  simp [branchTo]
@[simp] theorem branchTo_lo (s : State) (w : Word) : (branchTo s w).lo = s.lo := by
  simp [branchTo]
@[simp] theorem branchTo_f (s : State) (w : Word) : (branchTo s w).f = s.f := by
  simp [branchTo]
@[simp] theorem branchTo_mem (s : State) (w : Word) : (branchTo s w).mem = s.mem := by
  simp [branchTo]
@[simp] theorem branchTo_params (s : State) (w : Word) : (branchTo s w).params = s.params := by
  simp [branchTo]

/-! ## Registers read after a write -/

@[simp] theorem readX_zero (s : State) : readX s 0#5 = 0#32 := rfl

theorem readX_congr {s t : State} (h : t.x = s.x) (r : Reg) : readX t r = readX s r := by simp [readX, h]

theorem readF_congr {s t : State} (h : t.f = s.f) (r : Reg) : readF t r = readF s r := by simp [readF, h]

theorem readX_writeX_same (s : State) (r : Reg) (v : Word) :
    readX (writeX s r v) r = if r = 0#5 then 0#32 else v := by
  by_cases h : r = 0#5 <;> simp [readX, writeX, h]

theorem readX_writeX_other (s : State) {r q : Reg} (v : Word) (h : q ≠ r) : readX (writeX s r v) q = readX s q := by
  have hn : r.toNat ≠ q.toNat := fun e => h (BitVec.eq_of_toNat_eq e.symm)
  by_cases hr : r = 0#5
  · simp [writeX, hr]
  · simp [readX, writeX, hr, hn]

@[simp] theorem readF_writeF_same (s : State) (r : Reg) (v : Word) : readF (writeF s r v) r = v := by
  simp [readF, writeF]

theorem readF_writeF_other (s : State) {r q : Reg} (v : Word) (h : q ≠ r) : readF (writeF s r v) q = readF s q := by
  have hn : r.toNat ≠ q.toNat := fun e => h (BitVec.eq_of_toNat_eq e.symm)
  simp [readF, writeF, hn]

@[simp] theorem readF_writeX (s : State) (r q : Reg) (v : Word) : readF (writeX s r v) q = readF s q :=
  readF_congr (writeX_f s r v) q

@[simp] theorem readX_writeF (s : State) (r q : Reg) (v : Word) : readX (writeF s r v) q = readX s q := rfl

@[simp] theorem readX_writeHiLo (s : State) (h l : Word) (q : Reg) : readX (writeHiLo s h l) q = readX s q := rfl

@[simp] theorem readF_writeHiLo (s : State) (h l : Word) (q : Reg) : readF (writeHiLo s h l) q = readF s q := rfl

@[simp] theorem readX_storeBytes (s : State) (a : Word) (n : Nat) (v : Word) (q : Reg) :
    readX (storeBytes s a n v) q = readX s q := rfl

@[simp] theorem readF_storeBytes (s : State) (a : Word) (n : Nat) (v : Word) (q : Reg) :
    readF (storeBytes s a n v) q = readF s q := rfl

@[simp] theorem readX_movePc (s : State) (n : Word) (b : Bool) (l : Option RegName) (q : Reg) :
    readX (movePc s n b l) q = readX s q := readX_congr (movePc_x s n b l) q

@[simp] theorem readF_movePc (s : State) (n : Word) (b : Bool) (l : Option RegName) (q : Reg) :
    readF (movePc s n b l) q = readF s q := readF_congr (movePc_f s n b l) q

@[simp] theorem readX_nextInstr (s : State) (l : Option RegName) (q : Reg) : readX (nextInstr s l) q = readX s q :=
  readX_congr (nextInstr_x s l) q

@[simp] theorem readF_nextInstr (s : State) (l : Option RegName) (q : Reg) : readF (nextInstr s l) q = readF s q :=
  readF_congr (nextInstr_f s l) q

@[simp] theorem readX_notTaken (s : State) (q : Reg) : readX (notTaken s) q = readX s q := readX_congr (notTaken_x s) q

@[simp] theorem readF_notTaken (s : State) (q : Reg) : readF (notTaken s) q = readF s q := readF_congr (notTaken_f s) q

@[simp] theorem readX_branchTo (s : State) (w : Word) (q : Reg) : readX (branchTo s w) q = readX s q :=
  readX_congr (branchTo_x s w) q

@[simp] theorem readF_branchTo (s : State) (w : Word) (q : Reg) : readF (branchTo s w) q = readF s q :=
  readF_congr (branchTo_f s w) q

/-! ## The launch state -/

@[simp] theorem launch_mem (p : Params) : (State.launch p).mem = [] := rfl
@[simp] theorem launch_pc (p : Params) : (State.launch p).pc = p.entry := rfl
@[simp] theorem launch_params (p : Params) : (State.launch p).params = p := rfl
@[simp] theorem launch_ld (p : Params) : (State.launch p).ld = none := rfl

end Sys2Proof.Machine
end

