-- ==== Sys2Proof/Laws/Memory.lean ====
section
/-! SUPPORT. Memory: read after write, the canonical form, and bytes against values (20_memory.md R50, R53, R54). -/

namespace Sys2Proof.Machine

/-! ## One byte -/

theorem Memory.read_write_same (m : Memory) (a : Nat) (v : Byte) : Memory.read (Memory.write m a v) a = some v := by
  induction m with
  | nil => simp [Memory.write, Memory.read]
  | cons c m ih =>
    obtain ⟨b, w⟩ := c
    by_cases h1 : a < b
    · simp [Memory.write, Memory.read, h1]
    · by_cases h2 : a = b
      · simp [Memory.write, Memory.read, h2]
      · simp [Memory.write, Memory.read, h1, h2, ih]

theorem Memory.read_write_other (m : Memory) {a c : Nat} (v : Byte) (h : c ≠ a) :
    Memory.read (Memory.write m a v) c = Memory.read m c := by
  induction m with
  | nil => simp [Memory.write, Memory.read, h]
  | cons p m ih =>
    obtain ⟨b, w⟩ := p
    by_cases h1 : a < b
    · simp [Memory.write, Memory.read, h1, h]
    · by_cases h2 : a = b
      · subst h2
        simp [Memory.write, Memory.read, h]
      · simp [Memory.write, Memory.read, h1, h2, ih]

/-! ## The canonical form -/

/-- The canonical form read off the tail: every address of `m` is above `a`. -/
theorem Memory.wf_cons (a : Nat) (v : Byte) (m : Memory) :
    Memory.wf ((a, v) :: m) = true ↔
      a < 4294967296 ∧ Memory.wf m = true ∧ ∀ c ∈ m.head?, a < c.1 := by
  cases m with
  | nil => simp [Memory.wf]
  | cons c m =>
    obtain ⟨b, w⟩ := c
    simp only [Memory.wf, Bool.and_eq_true, decide_eq_true_eq, List.head?_cons, Option.mem_def, Option.some.injEq,
      forall_eq']
    constructor
    · rintro ⟨h, hw⟩
      have hb : b < 4294967296 := by
        cases m with
        | nil => simpa [Memory.wf] using hw
        | cons d m =>
          obtain ⟨hbd, _⟩ : b < d.1 ∧ _ := by simpa [Memory.wf] using hw
          have hm : ∀ (l : Memory) (e : Host.Cell), Memory.wf (e :: l) = true → e.1 < 4294967296 := by
            intro l
            induction l with
            | nil => intro e he; simpa [Memory.wf] using he
            | cons f l ih =>
              intro e he
              have he' : e.1 < f.1 ∧ Memory.wf (f :: l) = true := by simpa [Memory.wf] using he
              exact lt_trans he'.1 (ih f he'.2)
          exact hm _ _ hw
      exact ⟨by omega, hw, h⟩
    · rintro ⟨_, hw, h⟩
      exact ⟨h, hw⟩

theorem Memory.head_write (m : Memory) (a : Nat) (v : Byte) :
    ∀ c ∈ (Memory.write m a v).head?, c.1 = a ∨ ∃ d ∈ m.head?, c.1 = d.1 := by
  cases m with
  | nil => simp [Memory.write]
  | cons d m =>
    obtain ⟨b, w⟩ := d
    by_cases h1 : a < b
    · simp [Memory.write, h1]
    · by_cases h2 : a = b
      · simp [Memory.write, h2]
      · simp [Memory.write, h1, h2]

/-- A write inside the address space keeps the canonical form. -/
theorem Memory.wf_write (m : Memory) (a : Nat) (v : Byte) (ha : a < 4294967296) (h : Memory.wf m = true) :
    Memory.wf (Memory.write m a v) = true := by
  induction m with
  | nil => simp [Memory.write, Memory.wf, ha]
  | cons p m ih =>
    obtain ⟨b, w⟩ := p
    have hb := (Memory.wf_cons b w m).1 h
    by_cases h1 : a < b
    · simp only [Memory.write, if_pos h1]
      exact (Memory.wf_cons a v _).2 ⟨ha, h, by simpa using h1⟩
    · by_cases h2 : a = b
      · subst h2
        simp only [Memory.write, lt_irrefl, if_false, if_true]
        exact (Memory.wf_cons a v m).2 ⟨ha, hb.2.1, hb.2.2⟩
      · simp only [Memory.write, if_neg h1, if_neg h2]
        refine (Memory.wf_cons b w _).2 ⟨hb.1, ih hb.2.1, fun c hc => ?_⟩
        rcases Memory.head_write m a v c hc with e | ⟨d, hd, e⟩
        · omega
        · rw [e]; exact hb.2.2 d hd

/-- Writing bytes at 32-bit addresses keeps the canonical form. -/
theorem wf_writeBytes (m : Memory) (as : List Word) (bs : List Byte) (h : Memory.wf m = true) :
    Memory.wf (writeBytes m as bs) = true := by
  induction as generalizing m bs with
  | nil => simpa [writeBytes] using h
  | cons a as ih =>
    cases bs with
    | nil => simpa [writeBytes] using h
    | cons b bs => exact ih _ _ (Memory.wf_write m _ b a.isLt h)

theorem storeBytes_wf (s : State) (a : Word) (n : Nat) (v : Word) (h : Memory.wf s.mem = true) :
    Memory.wf (storeBytes s a n v).mem = true := wf_writeBytes _ _ _ h

theorem reset_wf : Memory.wf State.reset.mem = true := rfl

/-! ## Several bytes -/

/-- A byte outside the written addresses reads as before. -/
theorem read_writeBytes_other (m : Memory) (as : List Word) (bs : List Byte) (c : Nat)
    (h : ∀ a ∈ as, c ≠ a.toNat) : Memory.read (writeBytes m as bs) c = Memory.read m c := by
  induction as generalizing m bs with
  | nil => simp [writeBytes]
  | cons a as ih =>
    cases bs with
    | nil => simp [writeBytes]
    | cons b bs =>
      rw [writeBytes, ih _ _ fun x hx => h x (List.mem_cons_of_mem _ hx)]
      exact Memory.read_write_other _ _ (h a List.mem_cons_self)

theorem mem_accessAddrs (a : Word) (n : Nat) (c : Word) :
    c ∈ accessAddrs a n ↔ ∃ k, k < n ∧ c = a + BitVec.ofNat 32 k := by
  induction n generalizing a with
  | zero => simp [accessAddrs]
  | succ n ih =>
    rw [accessAddrs, List.mem_cons, ih]
    constructor
    · rintro (rfl | ⟨k, hk, rfl⟩)
      · exact ⟨0, by omega, by simp⟩
      · refine ⟨k + 1, by omega, ?_⟩
        rw [BitVec.add_assoc]; congr 1
        apply BitVec.eq_of_toNat_eq; simp [Nat.add_comm]
    · rintro ⟨k, hk, rfl⟩
      cases k with
      | zero => left; simp
      | succ k =>
        refine .inr ⟨k, by omega, ?_⟩
        rw [BitVec.add_assoc]; congr 1
        apply BitVec.eq_of_toNat_eq; simp [Nat.add_comm]

theorem accessAddrs_length (a : Word) (n : Nat) : (accessAddrs a n).length = n := by
  induction n generalizing a with
  | zero => rfl
  | succ n ih => simp [accessAddrs, ih]

/-- The addresses of an access of at most 2^32 bytes are distinct. -/
theorem accessAddrs_nodup (a : Word) (n : Nat) (h : n ≤ 4294967296) : (accessAddrs a n).Nodup := by
  induction n generalizing a with
  | zero => simp [accessAddrs]
  | succ n ih =>
    rw [accessAddrs, List.nodup_cons]
    refine ⟨fun hm => ?_, ih _ (by omega)⟩
    obtain ⟨k, hk, e⟩ := (mem_accessAddrs _ _ _).1 hm
    have := congrArg BitVec.toNat e
    simp only [BitVec.toNat_add, BitVec.toNat_ofNat] at this
    have := a.isLt
    omega

/-- Reading back the bytes just written at distinct addresses. -/
theorem readBytes_writeBytes (m : Memory) (as : List Word) (bs : List Byte) (hn : as.Nodup)
    (hl : as.length = bs.length) : readBytes (writeBytes m as bs) as = some bs := by
  induction as generalizing m bs with
  | nil =>
    cases bs with
    | nil => rfl
    | cons b bs => simp at hl
  | cons a as ih =>
    cases bs with
    | nil => simp at hl
    | cons b bs =>
      have hd := (List.nodup_cons.1 hn)
      have hr : Memory.read (writeBytes (Memory.write m a.toNat b) as bs) a.toNat = some b := by
        rw [read_writeBytes_other _ _ _ _ fun x hx e => hd.1 (by rwa [BitVec.eq_of_toNat_eq e])]
        exact Memory.read_write_same _ _ _
      simp only [writeBytes, readBytes, hr, ih _ _ hd.2 (by simpa using hl)]

theorem readBytes_length {m : Memory} {as : List Word} {bs : List Byte} (h : readBytes m as = some bs) :
    bs.length = as.length := by
  induction as generalizing bs with
  | nil => simp [readBytes] at h; simp [← h]
  | cons a as ih =>
    simp only [readBytes] at h
    split at h
    · cases h
    · split at h
      · cases h
      · rename_i hb
        simp only [Option.some.injEq] at h
        simp [← h, ih hb]

/-! ## Bytes and values -/

theorem leBytes_length (n v : Nat) : (leBytes n v).length = n := by
  induction n generalizing v with
  | zero => rfl
  | succ n ih => simp [leBytes, ih]

@[simp] theorem splitBytes_length (e : Endian) (n v : Nat) : (splitBytes e n v).length = n := by
  cases e <;> simp [splitBytes, leBytes_length]

theorem leValue_leBytes (n v : Nat) : leValue (leBytes n v) = v % 256 ^ n := by
  induction n generalizing v with
  | zero => simp [leBytes, leValue, Nat.mod_one]
  | succ n ih =>
    have h8 : (BitVec.ofNat 8 v).toNat = v % 256 := by rw [BitVec.toNat_ofNat]
    rw [leBytes, leValue, ih, h8, pow_succ', Nat.mod_mul]

/-- `MemRead` undoes `MemWrite` under either order (R54). -/
theorem joinBytes_splitBytes (e : Endian) (n v : Nat) : joinBytes e (splitBytes e n v) = v % 256 ^ n := by
  cases e <;> simp [joinBytes, splitBytes, leValue_leBytes]

end Sys2Proof.Machine
end

