-- ==== Sys2Proof/Laws/Ops.lean ====
section
/-! SUPPORT. One lemma per shared operation that says once what it can answer; proofs cite these instead of unfolding. -/

namespace Sys2Proof.Machine

/-! ## Guards -/

theorem loadedUse_eq_none {s : State} {rs : List RegName} : loadedUse s rs = none ↔ NoLoadedUse s rs := by
  unfold loadedUse NoLoadedUse
  by_cases h : s.params.loadDelay = true <;> simp [h]

/-- An instruction whose registers were not just loaded goes on. -/
theorem reading_of_noUse {s : State} {rs : List RegName} (k : Result) (h : NoLoadedUse s rs) : reading s rs k = k := by
  simp [reading, loadedUse_eq_none.2 h]

/-- All that `reading` can do: go on, or refuse a register that `ld` names. -/
theorem reading_cases (s : State) (rs : List RegName) (k : Result) :
    (NoLoadedUse s rs ∧ reading s rs k = k) ∨
    ∃ r ∈ rs, s.params.loadDelay = true ∧ s.ld = some r ∧ reading s rs k = .refused (.useOfLoadedRegister r) := by
  cases hu : loadedUse s rs with
  | none => exact .inl ⟨loadedUse_eq_none.1 hu, by simp [reading, hu]⟩
  | some r =>
    refine .inr ⟨r, ?_⟩
    unfold loadedUse at hu
    split at hu
    · rename_i hd
      have h1 := List.find?_some hu
      exact ⟨List.mem_of_find?_eq_some hu, hd, by simpa using h1, by simp [reading, loadedUse, hd, hu]⟩
    · cases hu

theorem reading_next {s t : State} {rs : List RegName} {k : Result} (h : reading s rs k = .next t) :
    NoLoadedUse s rs ∧ k = .next t := by
  rcases reading_cases s rs k with ⟨hn, e⟩ | ⟨r, _, _, _, e⟩
  · exact ⟨hn, e ▸ h⟩
  · rw [e] at h; cases h

theorem reading_fault {s : State} {rs : List RegName} {k : Result} {f : Fault} (h : reading s rs k = .fault f) :
    NoLoadedUse s rs ∧ k = .fault f := by
  rcases reading_cases s rs k with ⟨hn, e⟩ | ⟨r, _, _, _, e⟩
  · exact ⟨hn, e ▸ h⟩
  · rw [e] at h; cases h

theorem inDelaySlot_eq_false {s : State} : inDelaySlot s = false ↔ NotInSlot s := by
  simp [inDelaySlot, NotInSlot]

theorem transferring_of_notInSlot {s : State} (k : Result) (h : NotInSlot s) : transferring s k = k := by
  simp [transferring, inDelaySlot_eq_false.2 h]

theorem transferring_of_inSlot {s : State} (k : Result) (h : ¬NotInSlot s) :
    transferring s k = .refused .controlTransferInDelaySlot := by
  have : inDelaySlot s = true := by
    cases e : inDelaySlot s
    · exact absurd (inDelaySlot_eq_false.1 e) h
    · rfl
  simp [transferring, this]

theorem transferring_next {s t : State} {k : Result} (h : transferring s k = .next t) : NotInSlot s ∧ k = .next t := by
  by_cases hs : NotInSlot s
  · exact ⟨hs, by rwa [transferring_of_notInSlot k hs] at h⟩
  · rw [transferring_of_inSlot k hs] at h; cases h

theorem transferring_fault {s : State} {k : Result} {f : Fault} (h : transferring s k = .fault f) :
    NotInSlot s ∧ k = .fault f := by
  by_cases hs : NotInSlot s
  · exact ⟨hs, by rwa [transferring_of_notInSlot k hs] at h⟩
  · rw [transferring_of_inSlot k hs] at h; cases h

theorem usingCp1_of_usable {s : State} (k : Result) (h : s.params.cp1Usable = true) : usingCp1 s k = k := by
  simp [usingCp1, h]

theorem usingCp1_of_unusable {s : State} (k : Result) (h : s.params.cp1Usable = false) :
    usingCp1 s k = raise s (.coprocessorUnusable 1) := by
  simp [usingCp1, h]

/-! ## Exceptions -/

/-- What `raise` records (60_exceptions.md R224). -/
theorem raise_stopsWith (s : State) (c : Cause) : StopsWith (raise s c) s c := by
  refine ⟨fun h => ?_, fun h => ?_⟩
  · simp [raise, exceptionPc, inDelaySlot_eq_false.2 h]
  · have : inDelaySlot s = true := by
      cases e : inDelaySlot s
      · exact absurd (inDelaySlot_eq_false.1 e) h
      · rfl
    simp [raise, exceptionPc, this]

theorem raise_ne_next (s t : State) (c : Cause) : raise s c ≠ .next t := by simp [raise]

theorem usingCp1_next {s t : State} {k : Result} (h : usingCp1 s k = .next t) :
    s.params.cp1Usable = true ∧ k = .next t := by
  unfold usingCp1 at h
  split at h
  · rename_i hu; exact ⟨hu, h⟩
  · exact absurd h (raise_ne_next _ _ _)

/-! ## Completion -/

theorem nextLd_eq (s : State) (l : Option RegName) :
    nextLd s l = if s.params.loadDelay = true then (if l = some (.gpr 0#5) then none else l) else none := by
  unfold nextLd
  by_cases h : s.params.loadDelay = true <;> by_cases h2 : l = some (.gpr 0#5) <;> simp [h, h2]

/-- The `pc` part of an instruction that goes on with `NextInstr`; `u` is the state with its effect written. -/
theorem nextInstr_wentOn {s u : State} {l l' : Option RegName} (hp : u.pc = s.pc) (hn : u.npc = s.npc) (hd : u.ds = s.ds)
    (hq : u.params = s.params) (hl : l' = if l = some (.gpr 0#5) then none else l) : WentOn s (nextInstr u l) l' := by
  refine ⟨fun hb => ?_, fun hb => ?_, ?_⟩
  · simp [nextInstr, sequentialPc, hq, hb, hp, hn, hd]
  · simp [nextInstr, sequentialPc, hq, hb, hn]
  · simp [LdIs, nextInstr, nextLd_eq, hq, hl]

theorem notTaken_wentPast (s : State) : WentPast s (notTaken s) := by
  refine ⟨fun hb => ?_, fun hb => ?_, ?_⟩
  · simp [notTaken, sequentialPc, hb]
  · simp [notTaken, sequentialPc, hb]
  · simp [LdIs, notTaken, nextLd_eq]

theorem branchTo_wentTo {s u : State} (w : Word) (hn : u.npc = s.npc) (hd : u.ds = s.ds) (hq : u.params = s.params) :
    WentTo s (branchTo u w) w := by
  refine ⟨fun hb => ?_, fun hb => ?_, ?_⟩
  · simp [branchTo, hq, hb, hn, hd]
  · simp [branchTo, hq, hb, hn]
  · simp [LdIs, branchTo, nextLd_eq, hq]

/-! ## The shapes of an instruction's effect -/

/-- An instruction that writes one general register and goes on. -/
theorem setX_writes {i : Instr} {s : State} {rd : Reg} {v : Word} (h : exec i s = setX s rd v) :
    WritesX i s rd v none := by
  refine ⟨_, h, ?_, fun r hr => ?_, fun r => ?_, ?_, fun a => ?_, ?_, ?_⟩
  · simp [readX_writeX_same]
  · simp [readX_writeX_other s v hr]
  · simp
  · simp [HiLoSame]
  · simp
  · simp
  · exact nextInstr_wentOn (by simp) (by simp) (by simp) (by simp) (by simp)

/-- An instruction that loads one general register and goes on. -/
theorem completeLoad_writesX {i : Instr} {s : State} {rt : Reg} {v : Word}
    (h : exec i s = completeLoad (writeX s rt v) (.gpr rt)) :
    WritesX i s rt v (if rt = 0#5 then none else some (.gpr rt)) := by
  refine ⟨_, h, ?_, fun r hr => ?_, fun r => ?_, ?_, fun a => ?_, ?_, ?_⟩
  · simp [readX_writeX_same]
  · simp [readX_writeX_other s v hr]
  · simp
  · simp [HiLoSame]
  · simp
  · simp
  · exact nextInstr_wentOn (by simp) (by simp) (by simp) (by simp) (by simp)

/-- An instruction that writes one floating-point register and goes on. -/
theorem setF_writes {i : Instr} {s : State} {fd : Reg} {v : Word} (h : exec i s = setF s fd v) :
    WritesF i s fd v none := by
  refine ⟨_, h, ?_, fun r hr => ?_, fun r => ?_, ?_, fun a => ?_, ?_, ?_⟩
  · simp
  · simp [readF_writeF_other s v hr]
  · simp
  · simp [HiLoSame]
  · simp
  · simp
  · exact nextInstr_wentOn (by simp) (by simp) (by simp) (by simp) (by simp)

/-- An instruction that loads one floating-point register and goes on. -/
theorem completeLoad_writesF {i : Instr} {s : State} {ft : Reg} {v : Word}
    (h : exec i s = completeLoad (writeF s ft v) (.fpr ft)) : WritesF i s ft v (some (.fpr ft)) := by
  refine ⟨_, h, ?_, fun r hr => ?_, fun r => ?_, ?_, fun a => ?_, ?_, ?_⟩
  · simp
  · simp [readF_writeF_other s v hr]
  · simp
  · simp [HiLoSame]
  · simp
  · simp
  · exact nextInstr_wentOn (by simp) (by simp) (by simp) (by simp) (by simp)

/-- An instruction that writes `HI` and `LO` and goes on. -/
theorem setHiLo_writes {i : Instr} {s : State} {hi lo : Word} {post : Word → Word → Prop}
    (h : exec i s = setHiLo s hi lo) (hp : post hi lo) : WritesHiLo i s post := by
  refine ⟨_, h, ?_, fun r => ?_, fun r => ?_, fun a => ?_, ?_, ?_⟩
  · simpa using hp
  · simp
  · simp
  · simp
  · simp
  · exact nextInstr_wentOn (by simp) (by simp) (by simp) (by simp) (by simp)

/-- A jump that writes no register. -/
theorem branchTo_jumps {i : Instr} {s : State} {w : Word} (h : exec i s = .next (branchTo s w)) : Jumps i s w := by
  refine ⟨_, h, fun r => ?_, fun r => ?_, ?_, fun a => ?_, ?_, ?_⟩
  · simp
  · simp
  · simp [HiLoSame]
  · simp
  · simp
  · exact branchTo_wentTo w rfl rfl rfl

/-- A jump that links. -/
theorem branchTo_links {i : Instr} {s : State} {w l : Word} {rd : Reg}
    (h : exec i s = .next (branchTo (writeX s rd l) w)) : JumpsAndLinks i s w rd l := by
  refine ⟨_, h, ?_, fun r hr => ?_, fun r => ?_, ?_, fun a => ?_, ?_, ?_⟩
  · simp [readX_writeX_same]
  · simp [readX_writeX_other s l hr]
  · simp
  · simp [HiLoSame]
  · simp
  · simp
  · exact branchTo_wentTo w (by simp) (by simp) (by simp)

/-- A conditional branch that is not taken. -/
theorem notTaken_fallsThrough {i : Instr} {s : State} (h : exec i s = .next (notTaken s)) : FallsThrough i s := by
  refine ⟨_, h, fun r => ?_, fun r => ?_, ?_, fun a => ?_, ?_, ?_⟩
  · simp
  · simp
  · simp [HiLoSame]
  · simp
  · simp
  · exact notTaken_wentPast s

/-! ## Memory access -/

theorem allIn_iff (l : AddrSet) (a : Word) (n : Nat) : allIn l a n = true ↔ AllBytesIn l a n := by
  simp only [allIn, AllBytesIn, List.all_eq_true, mem_accessAddrs]
  exact ⟨fun h k hk => h _ ⟨k, hk, rfl⟩, fun h c ⟨k, hk, e⟩ => e ▸ h k hk⟩

theorem someIn_eq_false_iff (l : AddrSet) (a : Word) (n : Nat) : someIn l a n = false ↔ NoByteIn l a n := by
  simp only [someIn, NoByteIn, List.any_eq_false, mem_accessAddrs, Bool.not_eq_true]
  exact ⟨fun h k hk => h _ ⟨k, hk, rfl⟩, fun h c ⟨k, hk, e⟩ => e ▸ h k hk⟩

theorem aligned_iff (a : Word) (n : Nat) : aligned a n = true ↔ a.toNat % n = 0 := by simp [aligned]

/-- All a load can do, in the order of its checks (45_itype_load_store.md R190). -/
theorem load_cases (s : State) (ea : Word) (n : Nat) (k : Nat → Result) :
    (aligned ea n = false ∧ load s ea n k = raise s (.addressErrorLoad ea)) ∨
    (aligned ea n = true ∧ allIn s.params.memAlloc ea n = false ∧ load s ea n k = raise s (.unallocatedAccess ea)) ∨
    (aligned ea n = true ∧ allIn s.params.memAlloc ea n = true ∧ readBytes s.mem (accessAddrs ea n) = none ∧
      load s ea n k = .fault (.noValue ea)) ∨
    ∃ bs, aligned ea n = true ∧ allIn s.params.memAlloc ea n = true ∧ readBytes s.mem (accessAddrs ea n) = some bs ∧
      load s ea n k = k (joinBytes s.params.endian bs) := by
  unfold load memRead
  cases h1 : aligned ea n <;> cases h2 : allIn s.params.memAlloc ea n <;>
    cases h3 : readBytes s.mem (accessAddrs ea n) <;> simp

/-- A load that completes read its bytes and went on. -/
theorem load_next {s t : State} {ea : Word} {n : Nat} {k : Nat → Result} (h : load s ea n k = .next t) :
    ∃ bs, aligned ea n = true ∧ allIn s.params.memAlloc ea n = true ∧ readBytes s.mem (accessAddrs ea n) = some bs ∧
      k (joinBytes s.params.endian bs) = .next t := by
  rcases load_cases s ea n k with ⟨_, e⟩ | ⟨_, _, e⟩ | ⟨_, _, _, e⟩ | ⟨bs, h1, h2, h3, e⟩
  · exact absurd (e ▸ h) (raise_ne_next _ _ _)
  · exact absurd (e ▸ h) (raise_ne_next _ _ _)
  · rw [e] at h; cases h
  · exact ⟨bs, h1, h2, h3, e ▸ h⟩

/-- All a store can do, in the order of its checks (45_itype_load_store.md R190). -/
theorem store_cases (s : State) (ea : Word) (n : Nat) (v : Word) :
    (aligned ea n = false ∧ store s ea n v = raise s (.addressErrorStore ea)) ∨
    (aligned ea n = true ∧ allIn s.params.memAlloc ea n = false ∧ store s ea n v = raise s (.unallocatedAccess ea)) ∨
    (aligned ea n = true ∧ allIn s.params.memAlloc ea n = true ∧ someIn s.params.text ea n = true ∧
      store s ea n v = .refused (.storeIntoText ea)) ∨
    (aligned ea n = true ∧ allIn s.params.memAlloc ea n = true ∧ someIn s.params.text ea n = false ∧
      store s ea n v = complete (storeBytes s ea n v)) := by
  unfold store
  cases h1 : aligned ea n <;> cases h2 : allIn s.params.memAlloc ea n <;> cases h3 : someIn s.params.text ea n <;> simp

/-- A store that completes wrote its bytes outside `TEXT`. -/
theorem store_next {s t : State} {ea : Word} {n : Nat} {v : Word} (h : store s ea n v = .next t) :
    aligned ea n = true ∧ allIn s.params.memAlloc ea n = true ∧ someIn s.params.text ea n = false ∧
      t = nextInstr (storeBytes s ea n v) none := by
  rcases store_cases s ea n v with ⟨_, e⟩ | ⟨_, _, e⟩ | ⟨_, _, _, e⟩ | ⟨h1, h2, h3, e⟩
  · exact absurd (e ▸ h) (raise_ne_next _ _ _)
  · exact absurd (e ▸ h) (raise_ne_next _ _ _)
  · rw [e] at h; cases h
  · exact ⟨h1, h2, h3, by rw [e] at h; simpa [complete] using h.symm⟩

/-! ## Signed overflow -/

/-- The sum that `add` and `addi` report: out of the signed 32-bit range (40_rtype_alu.md R137). -/
theorem addOverflows_iff (a b : Word) :
    addOverflows a b = true ↔ a.toInt + b.toInt < -2147483648 ∨ 2147483647 < a.toInt + b.toInt := by
  simp [addOverflows]

/-- The difference that `sub` reports: out of the signed 32-bit range (40_rtype_alu.md R137). -/
theorem subOverflows_iff (a b : Word) :
    subOverflows a b = true ↔ a.toInt - b.toInt < -2147483648 ∨ 2147483647 < a.toInt - b.toInt := by
  simp [subOverflows]

/-! ## A step -/

/-- A step is the execution of the fetched instruction, or the stop of the fetch (10_state.md R30). -/
theorem step_cases (s : State) :
    (∃ i, fetchInstr s = .run i ∧ step s = exec i s) ∨ ∃ o, fetchInstr s = .stop o ∧ step s = o := by
  unfold step
  cases h : fetchInstr s with
  | run i => exact .inl ⟨i, rfl, rfl⟩
  | stop o => exact .inr ⟨o, rfl, rfl⟩

/-- The stop of a fetch is no next state. -/
theorem fetchInstr_stop_ne_next {s t : State} {o : Result} (h : fetchInstr s = .stop o) : o ≠ .next t := by
  unfold fetchInstr at h
  split at h
  · split at h
    · split at h
      · split at h
        · unfold decodeFetched at h
          split at h
          · obtain rfl := Fetched.stop.inj h; exact raise_ne_next _ _ _
          · split at h
            · cases h
            · obtain rfl := Fetched.stop.inj h; exact raise_ne_next _ _ _
            · obtain rfl := Fetched.stop.inj h; simp
        · obtain rfl := Fetched.stop.inj h; simp
      · obtain rfl := Fetched.stop.inj h; simp
    · obtain rfl := Fetched.stop.inj h; exact raise_ne_next _ _ _
  · obtain rfl := Fetched.stop.inj h; exact raise_ne_next _ _ _

/-- A step that completes executed an instruction. -/
theorem step_next {s t : State} (h : step s = .next t) : ∃ i, fetchInstr s = .run i ∧ exec i s = .next t := by
  rcases step_cases s with ⟨i, hf, e⟩ | ⟨o, hf, e⟩
  · exact ⟨i, hf, e ▸ h⟩
  · exact absurd (e ▸ h) (fetchInstr_stop_ne_next hf)

end Sys2Proof.Machine
end

