-- ==== Sys2Proof/Laws/Decode.lean ====
section
/-! SUPPORT. Instruction words as numbers: the fields of a word, and the fields read back from each format
(30_encoding.md R82 to R85). -/

namespace Sys2Proof

/-- Concatenation as arithmetic: the left operand is the more significant (00_scope.md R7). -/
theorem toNat_append_add {v w : Nat} (x : BitVec v) (y : BitVec w) : (x ++ y).toNat = x.toNat * 2 ^ w + y.toNat := by
  rw [BitVec.toNat_append, ← Nat.shiftLeft_add_eq_or_of_lt y.isLt, Nat.shiftLeft_eq]

/-! ## A field as a number -/

theorem opcodeOf_toNat (w : Word) : (opcodeOf w).toNat = w.toNat / 67108864 := by
  simp [opcodeOf, BitVec.extractLsb'_toNat, Nat.shiftRight_eq_div_pow]; omega
theorem rsOf_toNat (w : Word) : (rsOf w).toNat = w.toNat / 2097152 % 32 := by
  simp [rsOf, BitVec.extractLsb'_toNat, Nat.shiftRight_eq_div_pow]
theorem rtOf_toNat (w : Word) : (rtOf w).toNat = w.toNat / 65536 % 32 := by
  simp [rtOf, BitVec.extractLsb'_toNat, Nat.shiftRight_eq_div_pow]
theorem rdOf_toNat (w : Word) : (rdOf w).toNat = w.toNat / 2048 % 32 := by
  simp [rdOf, BitVec.extractLsb'_toNat, Nat.shiftRight_eq_div_pow]
theorem saOf_toNat (w : Word) : (saOf w).toNat = w.toNat / 64 % 32 := by
  simp [saOf, BitVec.extractLsb'_toNat, Nat.shiftRight_eq_div_pow]
theorem functOf_toNat (w : Word) : (functOf w).toNat = w.toNat % 64 := by
  simp [functOf, BitVec.extractLsb'_toNat, Nat.shiftRight_eq_div_pow]
theorem immOf_toNat (w : Word) : (immOf w).toNat = w.toNat % 65536 := by
  simp [immOf, BitVec.extractLsb'_toNat, Nat.shiftRight_eq_div_pow]
theorem targetOf_toNat (w : Word) : (targetOf w).toNat = w.toNat % 67108864 := by
  simp [targetOf, BitVec.extractLsb'_toNat, Nat.shiftRight_eq_div_pow]

/-! ## Fields of `encodeR` -/

theorem encodeR_toNat (rs rt rd : Reg) (sa : Shamt) (f : BitVec 6) :
    (encodeR rs rt rd sa f).toNat = rs.toNat * 2097152 + rt.toNat * 65536 + rd.toNat * 2048 + sa.toNat * 64 + f.toNat := by
  have h : (0#6 ++ rs ++ rt ++ rd ++ sa ++ f : BitVec (6 + 5 + 5 + 5 + 5 + 6)).toNat =
      (((((0) * 2 ^ 5 + rs.toNat) * 2 ^ 5 + rt.toNat) * 2 ^ 5 + rd.toNat) * 2 ^ 5 + sa.toNat) * 2 ^ 6 + f.toNat := by
    simp only [toNat_append_add, BitVec.toNat_ofNat, Nat.zero_mod, Nat.reducePow]
  refine (show (encodeR rs rt rd sa f).toNat = _ from h).trans ?_
  omega
@[simp] theorem opcodeOf_encodeR (rs rt rd : Reg) (sa : Shamt) (f : BitVec 6) :
    opcodeOf (encodeR rs rt rd sa f) = 0x00#6 := by
  apply BitVec.eq_of_toNat_eq
  rw [opcodeOf_toNat, encodeR_toNat]
  try simp only [BitVec.toNat_ofNat, Nat.reducePow, Nat.reduceMod]
  omega
@[simp] theorem rsOf_encodeR (rs rt rd : Reg) (sa : Shamt) (f : BitVec 6) :
    rsOf (encodeR rs rt rd sa f) = rs := by
  apply BitVec.eq_of_toNat_eq
  rw [rsOf_toNat, encodeR_toNat]
  try simp only [BitVec.toNat_ofNat, Nat.reducePow, Nat.reduceMod]
  omega
@[simp] theorem rtOf_encodeR (rs rt rd : Reg) (sa : Shamt) (f : BitVec 6) :
    rtOf (encodeR rs rt rd sa f) = rt := by
  apply BitVec.eq_of_toNat_eq
  rw [rtOf_toNat, encodeR_toNat]
  try simp only [BitVec.toNat_ofNat, Nat.reducePow, Nat.reduceMod]
  omega
@[simp] theorem rdOf_encodeR (rs rt rd : Reg) (sa : Shamt) (f : BitVec 6) :
    rdOf (encodeR rs rt rd sa f) = rd := by
  apply BitVec.eq_of_toNat_eq
  rw [rdOf_toNat, encodeR_toNat]
  try simp only [BitVec.toNat_ofNat, Nat.reducePow, Nat.reduceMod]
  omega
@[simp] theorem saOf_encodeR (rs rt rd : Reg) (sa : Shamt) (f : BitVec 6) :
    saOf (encodeR rs rt rd sa f) = sa := by
  apply BitVec.eq_of_toNat_eq
  rw [saOf_toNat, encodeR_toNat]
  try simp only [BitVec.toNat_ofNat, Nat.reducePow, Nat.reduceMod]
  omega
@[simp] theorem functOf_encodeR (rs rt rd : Reg) (sa : Shamt) (f : BitVec 6) :
    functOf (encodeR rs rt rd sa f) = f := by
  apply BitVec.eq_of_toNat_eq
  rw [functOf_toNat, encodeR_toNat]
  try simp only [BitVec.toNat_ofNat, Nat.reducePow, Nat.reduceMod]
  omega

/-! ## Fields of `encodeI` -/

theorem encodeI_toNat (op : BitVec 6) (rs rt : Reg) (imm : Imm) :
    (encodeI op rs rt imm).toNat = op.toNat * 67108864 + rs.toNat * 2097152 + rt.toNat * 65536 + imm.toNat := by
  have h : (op ++ rs ++ rt ++ imm : BitVec (6 + 5 + 5 + 16)).toNat =
      (((op.toNat) * 2 ^ 5 + rs.toNat) * 2 ^ 5 + rt.toNat) * 2 ^ 16 + imm.toNat := by
    simp only [toNat_append_add, Nat.reducePow]
  refine (show (encodeI op rs rt imm).toNat = _ from h).trans ?_
  omega
@[simp] theorem opcodeOf_encodeI (op : BitVec 6) (rs rt : Reg) (imm : Imm) :
    opcodeOf (encodeI op rs rt imm) = op := by
  apply BitVec.eq_of_toNat_eq
  rw [opcodeOf_toNat, encodeI_toNat]
  try simp only [BitVec.toNat_ofNat, Nat.reducePow, Nat.reduceMod]
  omega
@[simp] theorem rsOf_encodeI (op : BitVec 6) (rs rt : Reg) (imm : Imm) :
    rsOf (encodeI op rs rt imm) = rs := by
  apply BitVec.eq_of_toNat_eq
  rw [rsOf_toNat, encodeI_toNat]
  try simp only [BitVec.toNat_ofNat, Nat.reducePow, Nat.reduceMod]
  omega
@[simp] theorem rtOf_encodeI (op : BitVec 6) (rs rt : Reg) (imm : Imm) :
    rtOf (encodeI op rs rt imm) = rt := by
  apply BitVec.eq_of_toNat_eq
  rw [rtOf_toNat, encodeI_toNat]
  try simp only [BitVec.toNat_ofNat, Nat.reducePow, Nat.reduceMod]
  omega
@[simp] theorem immOf_encodeI (op : BitVec 6) (rs rt : Reg) (imm : Imm) :
    immOf (encodeI op rs rt imm) = imm := by
  apply BitVec.eq_of_toNat_eq
  rw [immOf_toNat, encodeI_toNat]
  try simp only [BitVec.toNat_ofNat, Nat.reducePow, Nat.reduceMod]
  omega

/-! ## Fields of `encodeJ` -/

theorem encodeJ_toNat (op : BitVec 6) (tg : Target) :
    (encodeJ op tg).toNat = op.toNat * 67108864 + tg.toNat := by
  have h : (op ++ tg : BitVec (6 + 26)).toNat =
      (op.toNat) * 2 ^ 26 + tg.toNat := by
    simp only [toNat_append_add, Nat.reducePow]
  refine (show (encodeJ op tg).toNat = _ from h).trans ?_
  omega
@[simp] theorem opcodeOf_encodeJ (op : BitVec 6) (tg : Target) :
    opcodeOf (encodeJ op tg) = op := by
  apply BitVec.eq_of_toNat_eq
  rw [opcodeOf_toNat, encodeJ_toNat]
  try simp only [BitVec.toNat_ofNat, Nat.reducePow, Nat.reduceMod]
  omega
@[simp] theorem targetOf_encodeJ (op : BitVec 6) (tg : Target) :
    targetOf (encodeJ op tg) = tg := by
  apply BitVec.eq_of_toNat_eq
  rw [targetOf_toNat, encodeJ_toNat]
  try simp only [BitVec.toNat_ofNat, Nat.reducePow, Nat.reduceMod]
  omega

/-! ## Fields of `encodeCop1` -/

theorem encodeCop1_toNat (fmt ft fs fd : Reg) (f : BitVec 6) :
    (encodeCop1 fmt ft fs fd f).toNat = 1140850688 + fmt.toNat * 2097152 + ft.toNat * 65536 + fs.toNat * 2048 + fd.toNat * 64 + f.toNat := by
  have h : (0x11#6 ++ fmt ++ ft ++ fs ++ fd ++ f : BitVec (6 + 5 + 5 + 5 + 5 + 6)).toNat =
      (((((17) * 2 ^ 5 + fmt.toNat) * 2 ^ 5 + ft.toNat) * 2 ^ 5 + fs.toNat) * 2 ^ 5 + fd.toNat) * 2 ^ 6 + f.toNat := by
    simp only [toNat_append_add, BitVec.toNat_ofNat, Nat.reducePow, Nat.reduceMod]
  refine (show (encodeCop1 fmt ft fs fd f).toNat = _ from h).trans ?_
  omega
@[simp] theorem opcodeOf_encodeCop1 (fmt ft fs fd : Reg) (f : BitVec 6) :
    opcodeOf (encodeCop1 fmt ft fs fd f) = 0x11#6 := by
  apply BitVec.eq_of_toNat_eq
  rw [opcodeOf_toNat, encodeCop1_toNat]
  try simp only [BitVec.toNat_ofNat, Nat.reducePow, Nat.reduceMod]
  omega
@[simp] theorem rsOf_encodeCop1 (fmt ft fs fd : Reg) (f : BitVec 6) :
    rsOf (encodeCop1 fmt ft fs fd f) = fmt := by
  apply BitVec.eq_of_toNat_eq
  rw [rsOf_toNat, encodeCop1_toNat]
  try simp only [BitVec.toNat_ofNat, Nat.reducePow, Nat.reduceMod]
  omega
@[simp] theorem rtOf_encodeCop1 (fmt ft fs fd : Reg) (f : BitVec 6) :
    rtOf (encodeCop1 fmt ft fs fd f) = ft := by
  apply BitVec.eq_of_toNat_eq
  rw [rtOf_toNat, encodeCop1_toNat]
  try simp only [BitVec.toNat_ofNat, Nat.reducePow, Nat.reduceMod]
  omega
@[simp] theorem rdOf_encodeCop1 (fmt ft fs fd : Reg) (f : BitVec 6) :
    rdOf (encodeCop1 fmt ft fs fd f) = fs := by
  apply BitVec.eq_of_toNat_eq
  rw [rdOf_toNat, encodeCop1_toNat]
  try simp only [BitVec.toNat_ofNat, Nat.reducePow, Nat.reduceMod]
  omega
@[simp] theorem saOf_encodeCop1 (fmt ft fs fd : Reg) (f : BitVec 6) :
    saOf (encodeCop1 fmt ft fs fd f) = fd := by
  apply BitVec.eq_of_toNat_eq
  rw [saOf_toNat, encodeCop1_toNat]
  try simp only [BitVec.toNat_ofNat, Nat.reducePow, Nat.reduceMod]
  omega
@[simp] theorem functOf_encodeCop1 (fmt ft fs fd : Reg) (f : BitVec 6) :
    functOf (encodeCop1 fmt ft fs fd f) = f := by
  apply BitVec.eq_of_toNat_eq
  rw [functOf_toNat, encodeCop1_toNat]
  try simp only [BitVec.toNat_ofNat, Nat.reducePow, Nat.reduceMod]
  omega

/-! ## A word is made of its fields -/

theorem word_eq_encodeR {w : Word} (h : opcodeOf w = 0x00#6) :
    w = encodeR (rsOf w) (rtOf w) (rdOf w) (saOf w) (functOf w) := by
  have hn := congrArg BitVec.toNat h
  apply BitVec.eq_of_toNat_eq
  rw [encodeR_toNat, rsOf_toNat, rtOf_toNat, rdOf_toNat, saOf_toNat, functOf_toNat]
  simp only [opcodeOf_toNat, BitVec.toNat_ofNat] at hn
  omega

theorem word_eq_encodeCop1 {w : Word} (h : opcodeOf w = 0x11#6) :
    w = encodeCop1 (rsOf w) (rtOf w) (rdOf w) (saOf w) (functOf w) := by
  have hn := congrArg BitVec.toNat h
  apply BitVec.eq_of_toNat_eq
  rw [encodeCop1_toNat, rsOf_toNat, rtOf_toNat, rdOf_toNat, saOf_toNat, functOf_toNat]
  simp only [opcodeOf_toNat, BitVec.toNat_ofNat] at hn
  omega

theorem word_eq_encodeI (w : Word) : w = encodeI (opcodeOf w) (rsOf w) (rtOf w) (immOf w) := by
  apply BitVec.eq_of_toNat_eq
  rw [encodeI_toNat, opcodeOf_toNat, rsOf_toNat, rtOf_toNat, immOf_toNat]
  have := w.isLt
  omega

theorem word_eq_encodeJ (w : Word) : w = encodeJ (opcodeOf w) (targetOf w) := by
  apply BitVec.eq_of_toNat_eq
  rw [encodeJ_toNat, opcodeOf_toNat, targetOf_toNat]
  have := w.isLt
  omega

/-! ## Bitwise operations act field by field -/

theorem encodeR_and (a b c d : BitVec 5) (e : BitVec 6) (a' b' c' d' : BitVec 5) (e' : BitVec 6) :
    encodeR a b c d e &&& encodeR a' b' c' d' e' = encodeR (a &&& a') (b &&& b') (c &&& c') (d &&& d') (e &&& e') := by
  have h : (0#6 ++ a ++ b ++ c ++ d ++ e : BitVec (6 + 5 + 5 + 5 + 5 + 6)) &&& (0#6 ++ a' ++ b' ++ c' ++ d' ++ e') =
      0#6 ++ (a &&& a') ++ (b &&& b') ++ (c &&& c') ++ (d &&& d') ++ (e &&& e') := by
    simp only [BitVec.and_append, BitVec.zero_and]
  exact h

theorem encodeI_and (o : BitVec 6) (a b : BitVec 5) (i : Imm) (o' : BitVec 6) (a' b' : BitVec 5) (i' : Imm) :
    encodeI o a b i &&& encodeI o' a' b' i' = encodeI (o &&& o') (a &&& a') (b &&& b') (i &&& i') := by
  have h : (o ++ a ++ b ++ i : BitVec (6 + 5 + 5 + 16)) &&& (o' ++ a' ++ b' ++ i') =
      (o &&& o') ++ (a &&& a') ++ (b &&& b') ++ (i &&& i') := by
    simp only [BitVec.and_append]
  exact h

theorem encodeJ_and (o o' : BitVec 6) (t t' : Target) :
    encodeJ o t &&& encodeJ o' t' = encodeJ (o &&& o') (t &&& t') := by
  have h : (o ++ t : BitVec (6 + 26)) &&& (o' ++ t') = (o &&& o') ++ (t &&& t') := by
    simp only [BitVec.and_append]
  exact h

theorem encodeCop1_and (a b c d : BitVec 5) (e : BitVec 6) (a' b' c' d' : BitVec 5) (e' : BitVec 6) :
    encodeCop1 a b c d e &&& encodeCop1 a' b' c' d' e' =
      encodeCop1 (a &&& a') (b &&& b') (c &&& c') (d &&& d') (e &&& e') := by
  have h : (0x11#6 ++ a ++ b ++ c ++ d ++ e : BitVec (6 + 5 + 5 + 5 + 5 + 6)) &&& (0x11#6 ++ a' ++ b' ++ c' ++ d' ++ e') =
      0x11#6 ++ (a &&& a') ++ (b &&& b') ++ (c &&& c') ++ (d &&& d') ++ (e &&& e') := by
    simp only [BitVec.and_append, BitVec.and_self]
  exact h

theorem encodeCop1_and_encodeR (a b c d : BitVec 5) (e : BitVec 6) (a' b' c' d' : BitVec 5) (e' : BitVec 6) :
    encodeCop1 a b c d e &&& encodeR a' b' c' d' e' = encodeR (a &&& a') (b &&& b') (c &&& c') (d &&& d') (e &&& e') := by
  have h : (0x11#6 ++ a ++ b ++ c ++ d ++ e : BitVec (6 + 5 + 5 + 5 + 5 + 6)) &&&
      (0#6 ++ a' ++ b' ++ c' ++ d' ++ e') =
      0#6 ++ (a &&& a') ++ (b &&& b') ++ (c &&& c') ++ (d &&& d') ++ (e &&& e') := by
    simp only [BitVec.and_append, BitVec.and_zero]
  exact h

theorem encodeCop1_or_encodeR (a b c d : BitVec 5) (e : BitVec 6) (a' b' c' d' : BitVec 5) (e' : BitVec 6) :
    encodeCop1 a b c d e ||| encodeR a' b' c' d' e' =
      encodeCop1 (a ||| a') (b ||| b') (c ||| c') (d ||| d') (e ||| e') := by
  have h : (0x11#6 ++ a ++ b ++ c ++ d ++ e : BitVec (6 + 5 + 5 + 5 + 5 + 6)) |||
      (0#6 ++ a' ++ b' ++ c' ++ d' ++ e') =
      0x11#6 ++ (a ||| a') ++ (b ||| b') ++ (c ||| c') ++ (d ||| d') ++ (e ||| e') := by
    simp only [BitVec.or_append, BitVec.or_zero]
  exact h

theorem encodeI_or (o : BitVec 6) (a b : BitVec 5) (i : Imm) (o' : BitVec 6) (a' b' : BitVec 5) (i' : Imm) :
    encodeI o a b i ||| encodeI o' a' b' i' = encodeI (o ||| o') (a ||| a') (b ||| b') (i ||| i') := by
  have h : (o ++ a ++ b ++ i : BitVec (6 + 5 + 5 + 16)) ||| (o' ++ a' ++ b' ++ i') =
      (o ||| o') ++ (a ||| a') ++ (b ||| b') ++ (i ||| i') := by
    simp only [BitVec.or_append]
  exact h

/-- A word is zero exactly when its R-format fields are. -/
theorem encodeR_eq_zero (a b c d : BitVec 5) (e : BitVec 6) :
    encodeR a b c d e = 0#32 ↔ a = 0#5 ∧ b = 0#5 ∧ c = 0#5 ∧ d = 0#5 ∧ e = 0#6 := by
  simp only [← BitVec.toNat_inj, encodeR_toNat, BitVec.toNat_ofNat, Nat.zero_mod]
  omega

theorem encodeR_or (a b c d : BitVec 5) (e : BitVec 6) (a' b' c' d' : BitVec 5) (e' : BitVec 6) :
    encodeR a b c d e ||| encodeR a' b' c' d' e' = encodeR (a ||| a') (b ||| b') (c ||| c') (d ||| d') (e ||| e') := by
  have h : (0#6 ++ a ++ b ++ c ++ d ++ e : BitVec (6 + 5 + 5 + 5 + 5 + 6)) ||| (0#6 ++ a' ++ b' ++ c' ++ d' ++ e') =
      0#6 ++ (a ||| a') ++ (b ||| b') ++ (c ||| c') ++ (d ||| d') ++ (e ||| e') := by
    simp only [BitVec.or_append, BitVec.zero_or]
  exact h

end Sys2Proof
end

