-- ==== Sys2Proof/Laws/PerInstr.lean ====
section
/-! SUPPORT. Per-instruction family `EncodeRow`: the word of an instruction lies in its row of `opcode_table.json`, whose
strict `mask` and `match` are copied here (30_encoding.md R87, R89, R90, R93). -/

namespace Sys2Proof.Laws.EncodeRow

/-- The strict `mask` of the instruction's row. -/
def rowMask : Instr → Word
  | .sll _ _ _ => 0xFFE0003F#32
  | .srl _ _ _ => 0xFFE0003F#32
  | .sra _ _ _ => 0xFFE0003F#32
  | .sllv _ _ _ => 0xFC0007FF#32
  | .srlv _ _ _ => 0xFC0007FF#32
  | .srav _ _ _ => 0xFC0007FF#32
  | .jr _ => 0xFC1FFFFF#32
  | .jalr _ _ => 0xFC1F07FF#32
  | .syscall => 0xFFFFFFFF#32
  | .breakpoint => 0xFFFFFFFF#32
  | .mfhi _ => 0xFFFF07FF#32
  | .mthi _ => 0xFC1FFFFF#32
  | .mflo _ => 0xFFFF07FF#32
  | .mtlo _ => 0xFC1FFFFF#32
  | .mult _ _ => 0xFC00FFFF#32
  | .multu _ _ => 0xFC00FFFF#32
  | .div _ _ => 0xFC00FFFF#32
  | .divu _ _ => 0xFC00FFFF#32
  | .add _ _ _ => 0xFC0007FF#32
  | .addu _ _ _ => 0xFC0007FF#32
  | .sub _ _ _ => 0xFC0007FF#32
  | .subu _ _ _ => 0xFC0007FF#32
  | .and _ _ _ => 0xFC0007FF#32
  | .or _ _ _ => 0xFC0007FF#32
  | .xor _ _ _ => 0xFC0007FF#32
  | .nor _ _ _ => 0xFC0007FF#32
  | .slt _ _ _ => 0xFC0007FF#32
  | .sltu _ _ _ => 0xFC0007FF#32
  | .bltz _ _ => 0xFC1F0000#32
  | .bgez _ _ => 0xFC1F0000#32
  | .beq _ _ _ => 0xFC000000#32
  | .bne _ _ _ => 0xFC000000#32
  | .blez _ _ => 0xFC1F0000#32
  | .bgtz _ _ => 0xFC1F0000#32
  | .addi _ _ _ => 0xFC000000#32
  | .addiu _ _ _ => 0xFC000000#32
  | .slti _ _ _ => 0xFC000000#32
  | .sltiu _ _ _ => 0xFC000000#32
  | .andi _ _ _ => 0xFC000000#32
  | .ori _ _ _ => 0xFC000000#32
  | .xori _ _ _ => 0xFC000000#32
  | .lui _ _ => 0xFFE00000#32
  | .lb _ _ _ => 0xFC000000#32
  | .lh _ _ _ => 0xFC000000#32
  | .lw _ _ _ => 0xFC000000#32
  | .lbu _ _ _ => 0xFC000000#32
  | .lhu _ _ _ => 0xFC000000#32
  | .sb _ _ _ => 0xFC000000#32
  | .sh _ _ _ => 0xFC000000#32
  | .sw _ _ _ => 0xFC000000#32
  | .lwc1 _ _ _ => 0xFC000000#32
  | .swc1 _ _ _ => 0xFC000000#32
  | .j _ => 0xFC000000#32
  | .jal _ => 0xFC000000#32
  | .addS _ _ _ => 0xFFE0003F#32
  | .subS _ _ _ => 0xFFE0003F#32
  | .mulS _ _ _ => 0xFFE0003F#32
  | .divS _ _ _ => 0xFFE0003F#32
  | .movS _ _ => 0xFFFF003F#32
  | .cvtSW _ _ => 0xFFFF003F#32
  | .cvtWS _ _ => 0xFFFF003F#32
  | .mfc1 _ _ => 0xFFE007FF#32
  | .mtc1 _ _ => 0xFFE007FF#32

/-- The strict `match` of the instruction's row. -/
def rowMatch : Instr → Word
  | .sll _ _ _ => 0x00000000#32
  | .srl _ _ _ => 0x00000002#32
  | .sra _ _ _ => 0x00000003#32
  | .sllv _ _ _ => 0x00000004#32
  | .srlv _ _ _ => 0x00000006#32
  | .srav _ _ _ => 0x00000007#32
  | .jr _ => 0x00000008#32
  | .jalr _ _ => 0x00000009#32
  | .syscall => 0x0000000C#32
  | .breakpoint => 0x0000000D#32
  | .mfhi _ => 0x00000010#32
  | .mthi _ => 0x00000011#32
  | .mflo _ => 0x00000012#32
  | .mtlo _ => 0x00000013#32
  | .mult _ _ => 0x00000018#32
  | .multu _ _ => 0x00000019#32
  | .div _ _ => 0x0000001A#32
  | .divu _ _ => 0x0000001B#32
  | .add _ _ _ => 0x00000020#32
  | .addu _ _ _ => 0x00000021#32
  | .sub _ _ _ => 0x00000022#32
  | .subu _ _ _ => 0x00000023#32
  | .and _ _ _ => 0x00000024#32
  | .or _ _ _ => 0x00000025#32
  | .xor _ _ _ => 0x00000026#32
  | .nor _ _ _ => 0x00000027#32
  | .slt _ _ _ => 0x0000002A#32
  | .sltu _ _ _ => 0x0000002B#32
  | .bltz _ _ => 0x04000000#32
  | .bgez _ _ => 0x04010000#32
  | .beq _ _ _ => 0x10000000#32
  | .bne _ _ _ => 0x14000000#32
  | .blez _ _ => 0x18000000#32
  | .bgtz _ _ => 0x1C000000#32
  | .addi _ _ _ => 0x20000000#32
  | .addiu _ _ _ => 0x24000000#32
  | .slti _ _ _ => 0x28000000#32
  | .sltiu _ _ _ => 0x2C000000#32
  | .andi _ _ _ => 0x30000000#32
  | .ori _ _ _ => 0x34000000#32
  | .xori _ _ _ => 0x38000000#32
  | .lui _ _ => 0x3C000000#32
  | .lb _ _ _ => 0x80000000#32
  | .lh _ _ _ => 0x84000000#32
  | .lw _ _ _ => 0x8C000000#32
  | .lbu _ _ _ => 0x90000000#32
  | .lhu _ _ _ => 0x94000000#32
  | .sb _ _ _ => 0xA0000000#32
  | .sh _ _ _ => 0xA4000000#32
  | .sw _ _ _ => 0xAC000000#32
  | .lwc1 _ _ _ => 0xC4000000#32
  | .swc1 _ _ _ => 0xE4000000#32
  | .j _ => 0x08000000#32
  | .jal _ => 0x0C000000#32
  | .addS _ _ _ => 0x46000000#32
  | .subS _ _ _ => 0x46000001#32
  | .mulS _ _ _ => 0x46000002#32
  | .divS _ _ _ => 0x46000003#32
  | .movS _ _ => 0x46000006#32
  | .cvtSW _ _ => 0x46800020#32
  | .cvtWS _ _ => 0x46000024#32
  | .mfc1 _ _ => 0x44000000#32
  | .mtc1 _ _ => 0x44800000#32

/-- The word of the instruction has its row's fixed bits. -/
def Statement (i : Instr) : Prop := encode i &&& rowMask i = rowMatch i

/-- The fixed bits of an R-format word. -/
theorem fixed_encodeR (a b c d : BitVec 5) (e : BitVec 6) (a' b' c' d' : BitVec 5) (e' : BitVec 6) :
    encodeR a b c d e &&& (0x3F#6 ++ a' ++ b' ++ c' ++ d' ++ e' : BitVec 32) =
      encodeR (a &&& a') (b &&& b') (c &&& c') (d &&& d') (e &&& e') := by
  have h : (0#6 ++ a ++ b ++ c ++ d ++ e : BitVec (6 + 5 + 5 + 5 + 5 + 6)) &&&
      (0x3F#6 ++ a' ++ b' ++ c' ++ d' ++ e') =
      0#6 ++ (a &&& a') ++ (b &&& b') ++ (c &&& c') ++ (d &&& d') ++ (e &&& e') := by
    simp only [BitVec.and_append, BitVec.zero_and]
  exact h

/-- The fixed bits of a coprocessor-1 word. -/
theorem fixed_encodeCop1 (a b c d : BitVec 5) (e : BitVec 6) (a' b' c' d' : BitVec 5) (e' : BitVec 6) :
    encodeCop1 a b c d e &&& (0x3F#6 ++ a' ++ b' ++ c' ++ d' ++ e' : BitVec 32) =
      encodeCop1 (a &&& a') (b &&& b') (c &&& c') (d &&& d') (e &&& e') := by
  have h : (0x11#6 ++ a ++ b ++ c ++ d ++ e : BitVec (6 + 5 + 5 + 5 + 5 + 6)) &&&
      (0x3F#6 ++ a' ++ b' ++ c' ++ d' ++ e') =
      (0x11#6 &&& 0x3F#6) ++ (a &&& a') ++ (b &&& b') ++ (c &&& c') ++ (d &&& d') ++ (e &&& e') := by
    simp only [BitVec.and_append]
  exact h

theorem sll (rd rt : Reg) (sa : Shamt) : Statement (.sll rd rt sa) := by
  refine (fixed_encodeR _ _ _ _ _ 0x1f#5 0x0#5 0x0#5 0x0#5 0x3f#6).trans ?_
  simp; rfl
theorem srl (rd rt : Reg) (sa : Shamt) : Statement (.srl rd rt sa) := by
  refine (fixed_encodeR _ _ _ _ _ 0x1f#5 0x0#5 0x0#5 0x0#5 0x3f#6).trans ?_
  simp; rfl
theorem sra (rd rt : Reg) (sa : Shamt) : Statement (.sra rd rt sa) := by
  refine (fixed_encodeR _ _ _ _ _ 0x1f#5 0x0#5 0x0#5 0x0#5 0x3f#6).trans ?_
  simp; rfl
theorem sllv (rd rt rs : Reg) : Statement (.sllv rd rt rs) := by
  refine (fixed_encodeR _ _ _ _ _ 0x0#5 0x0#5 0x0#5 0x1f#5 0x3f#6).trans ?_
  simp; rfl
theorem srlv (rd rt rs : Reg) : Statement (.srlv rd rt rs) := by
  refine (fixed_encodeR _ _ _ _ _ 0x0#5 0x0#5 0x0#5 0x1f#5 0x3f#6).trans ?_
  simp; rfl
theorem srav (rd rt rs : Reg) : Statement (.srav rd rt rs) := by
  refine (fixed_encodeR _ _ _ _ _ 0x0#5 0x0#5 0x0#5 0x1f#5 0x3f#6).trans ?_
  simp; rfl
theorem jr (rs : Reg) : Statement (.jr rs) := by
  refine (fixed_encodeR _ _ _ _ _ 0x0#5 0x1f#5 0x1f#5 0x1f#5 0x3f#6).trans ?_
  simp; rfl
theorem jalr (rd rs : Reg) : Statement (.jalr rd rs) := by
  refine (fixed_encodeR _ _ _ _ _ 0x0#5 0x1f#5 0x0#5 0x1f#5 0x3f#6).trans ?_
  simp; rfl
theorem syscall : Statement .syscall := by
  refine (fixed_encodeR _ _ _ _ _ 0x1f#5 0x1f#5 0x1f#5 0x1f#5 0x3f#6).trans ?_
  simp; rfl
theorem breakpoint : Statement .breakpoint := by
  refine (fixed_encodeR _ _ _ _ _ 0x1f#5 0x1f#5 0x1f#5 0x1f#5 0x3f#6).trans ?_
  simp; rfl
theorem mfhi (rd : Reg) : Statement (.mfhi rd) := by
  refine (fixed_encodeR _ _ _ _ _ 0x1f#5 0x1f#5 0x0#5 0x1f#5 0x3f#6).trans ?_
  simp; rfl
theorem mthi (rs : Reg) : Statement (.mthi rs) := by
  refine (fixed_encodeR _ _ _ _ _ 0x0#5 0x1f#5 0x1f#5 0x1f#5 0x3f#6).trans ?_
  simp; rfl
theorem mflo (rd : Reg) : Statement (.mflo rd) := by
  refine (fixed_encodeR _ _ _ _ _ 0x1f#5 0x1f#5 0x0#5 0x1f#5 0x3f#6).trans ?_
  simp; rfl
theorem mtlo (rs : Reg) : Statement (.mtlo rs) := by
  refine (fixed_encodeR _ _ _ _ _ 0x0#5 0x1f#5 0x1f#5 0x1f#5 0x3f#6).trans ?_
  simp; rfl
theorem mult (rs rt : Reg) : Statement (.mult rs rt) := by
  refine (fixed_encodeR _ _ _ _ _ 0x0#5 0x0#5 0x1f#5 0x1f#5 0x3f#6).trans ?_
  simp; rfl
theorem multu (rs rt : Reg) : Statement (.multu rs rt) := by
  refine (fixed_encodeR _ _ _ _ _ 0x0#5 0x0#5 0x1f#5 0x1f#5 0x3f#6).trans ?_
  simp; rfl
theorem div (rs rt : Reg) : Statement (.div rs rt) := by
  refine (fixed_encodeR _ _ _ _ _ 0x0#5 0x0#5 0x1f#5 0x1f#5 0x3f#6).trans ?_
  simp; rfl
theorem divu (rs rt : Reg) : Statement (.divu rs rt) := by
  refine (fixed_encodeR _ _ _ _ _ 0x0#5 0x0#5 0x1f#5 0x1f#5 0x3f#6).trans ?_
  simp; rfl
theorem add (rd rs rt : Reg) : Statement (.add rd rs rt) := by
  refine (fixed_encodeR _ _ _ _ _ 0x0#5 0x0#5 0x0#5 0x1f#5 0x3f#6).trans ?_
  simp; rfl
theorem addu (rd rs rt : Reg) : Statement (.addu rd rs rt) := by
  refine (fixed_encodeR _ _ _ _ _ 0x0#5 0x0#5 0x0#5 0x1f#5 0x3f#6).trans ?_
  simp; rfl
theorem sub (rd rs rt : Reg) : Statement (.sub rd rs rt) := by
  refine (fixed_encodeR _ _ _ _ _ 0x0#5 0x0#5 0x0#5 0x1f#5 0x3f#6).trans ?_
  simp; rfl
theorem subu (rd rs rt : Reg) : Statement (.subu rd rs rt) := by
  refine (fixed_encodeR _ _ _ _ _ 0x0#5 0x0#5 0x0#5 0x1f#5 0x3f#6).trans ?_
  simp; rfl
theorem and (rd rs rt : Reg) : Statement (.and rd rs rt) := by
  refine (fixed_encodeR _ _ _ _ _ 0x0#5 0x0#5 0x0#5 0x1f#5 0x3f#6).trans ?_
  simp; rfl
theorem or (rd rs rt : Reg) : Statement (.or rd rs rt) := by
  refine (fixed_encodeR _ _ _ _ _ 0x0#5 0x0#5 0x0#5 0x1f#5 0x3f#6).trans ?_
  simp; rfl
theorem xor (rd rs rt : Reg) : Statement (.xor rd rs rt) := by
  refine (fixed_encodeR _ _ _ _ _ 0x0#5 0x0#5 0x0#5 0x1f#5 0x3f#6).trans ?_
  simp; rfl
theorem nor (rd rs rt : Reg) : Statement (.nor rd rs rt) := by
  refine (fixed_encodeR _ _ _ _ _ 0x0#5 0x0#5 0x0#5 0x1f#5 0x3f#6).trans ?_
  simp; rfl
theorem slt (rd rs rt : Reg) : Statement (.slt rd rs rt) := by
  refine (fixed_encodeR _ _ _ _ _ 0x0#5 0x0#5 0x0#5 0x1f#5 0x3f#6).trans ?_
  simp; rfl
theorem sltu (rd rs rt : Reg) : Statement (.sltu rd rs rt) := by
  refine (fixed_encodeR _ _ _ _ _ 0x0#5 0x0#5 0x0#5 0x1f#5 0x3f#6).trans ?_
  simp; rfl
theorem bltz (rs : Reg) (imm : Imm) : Statement (.bltz rs imm) := by
  refine (encodeI_and _ _ _ _ 0x3f#6 0x0#5 0x1f#5 0x0#16).trans ?_
  simp; rfl
theorem bgez (rs : Reg) (imm : Imm) : Statement (.bgez rs imm) := by
  refine (encodeI_and _ _ _ _ 0x3f#6 0x0#5 0x1f#5 0x0#16).trans ?_
  simp; rfl
theorem beq (rs rt : Reg) (imm : Imm) : Statement (.beq rs rt imm) := by
  refine (encodeI_and _ _ _ _ 0x3f#6 0x0#5 0x0#5 0x0#16).trans ?_
  simp; rfl
theorem bne (rs rt : Reg) (imm : Imm) : Statement (.bne rs rt imm) := by
  refine (encodeI_and _ _ _ _ 0x3f#6 0x0#5 0x0#5 0x0#16).trans ?_
  simp; rfl
theorem blez (rs : Reg) (imm : Imm) : Statement (.blez rs imm) := by
  refine (encodeI_and _ _ _ _ 0x3f#6 0x0#5 0x1f#5 0x0#16).trans ?_
  simp; rfl
theorem bgtz (rs : Reg) (imm : Imm) : Statement (.bgtz rs imm) := by
  refine (encodeI_and _ _ _ _ 0x3f#6 0x0#5 0x1f#5 0x0#16).trans ?_
  simp; rfl
theorem addi (rt rs : Reg) (imm : Imm) : Statement (.addi rt rs imm) := by
  refine (encodeI_and _ _ _ _ 0x3f#6 0x0#5 0x0#5 0x0#16).trans ?_
  simp; rfl
theorem addiu (rt rs : Reg) (imm : Imm) : Statement (.addiu rt rs imm) := by
  refine (encodeI_and _ _ _ _ 0x3f#6 0x0#5 0x0#5 0x0#16).trans ?_
  simp; rfl
theorem slti (rt rs : Reg) (imm : Imm) : Statement (.slti rt rs imm) := by
  refine (encodeI_and _ _ _ _ 0x3f#6 0x0#5 0x0#5 0x0#16).trans ?_
  simp; rfl
theorem sltiu (rt rs : Reg) (imm : Imm) : Statement (.sltiu rt rs imm) := by
  refine (encodeI_and _ _ _ _ 0x3f#6 0x0#5 0x0#5 0x0#16).trans ?_
  simp; rfl
theorem andi (rt rs : Reg) (imm : Imm) : Statement (.andi rt rs imm) := by
  refine (encodeI_and _ _ _ _ 0x3f#6 0x0#5 0x0#5 0x0#16).trans ?_
  simp; rfl
theorem ori (rt rs : Reg) (imm : Imm) : Statement (.ori rt rs imm) := by
  refine (encodeI_and _ _ _ _ 0x3f#6 0x0#5 0x0#5 0x0#16).trans ?_
  simp; rfl
theorem xori (rt rs : Reg) (imm : Imm) : Statement (.xori rt rs imm) := by
  refine (encodeI_and _ _ _ _ 0x3f#6 0x0#5 0x0#5 0x0#16).trans ?_
  simp; rfl
theorem lui (rt : Reg) (imm : Imm) : Statement (.lui rt imm) := by
  refine (encodeI_and _ _ _ _ 0x3f#6 0x1f#5 0x0#5 0x0#16).trans ?_
  simp; rfl
theorem lb (rt : Reg) (imm : Imm) (rs : Reg) : Statement (.lb rt imm rs) := by
  refine (encodeI_and _ _ _ _ 0x3f#6 0x0#5 0x0#5 0x0#16).trans ?_
  simp; rfl
theorem lh (rt : Reg) (imm : Imm) (rs : Reg) : Statement (.lh rt imm rs) := by
  refine (encodeI_and _ _ _ _ 0x3f#6 0x0#5 0x0#5 0x0#16).trans ?_
  simp; rfl
theorem lw (rt : Reg) (imm : Imm) (rs : Reg) : Statement (.lw rt imm rs) := by
  refine (encodeI_and _ _ _ _ 0x3f#6 0x0#5 0x0#5 0x0#16).trans ?_
  simp; rfl
theorem lbu (rt : Reg) (imm : Imm) (rs : Reg) : Statement (.lbu rt imm rs) := by
  refine (encodeI_and _ _ _ _ 0x3f#6 0x0#5 0x0#5 0x0#16).trans ?_
  simp; rfl
theorem lhu (rt : Reg) (imm : Imm) (rs : Reg) : Statement (.lhu rt imm rs) := by
  refine (encodeI_and _ _ _ _ 0x3f#6 0x0#5 0x0#5 0x0#16).trans ?_
  simp; rfl
theorem sb (rt : Reg) (imm : Imm) (rs : Reg) : Statement (.sb rt imm rs) := by
  refine (encodeI_and _ _ _ _ 0x3f#6 0x0#5 0x0#5 0x0#16).trans ?_
  simp; rfl
theorem sh (rt : Reg) (imm : Imm) (rs : Reg) : Statement (.sh rt imm rs) := by
  refine (encodeI_and _ _ _ _ 0x3f#6 0x0#5 0x0#5 0x0#16).trans ?_
  simp; rfl
theorem sw (rt : Reg) (imm : Imm) (rs : Reg) : Statement (.sw rt imm rs) := by
  refine (encodeI_and _ _ _ _ 0x3f#6 0x0#5 0x0#5 0x0#16).trans ?_
  simp; rfl
theorem lwc1 (ft : Reg) (imm : Imm) (rs : Reg) : Statement (.lwc1 ft imm rs) := by
  refine (encodeI_and _ _ _ _ 0x3f#6 0x0#5 0x0#5 0x0#16).trans ?_
  simp; rfl
theorem swc1 (ft : Reg) (imm : Imm) (rs : Reg) : Statement (.swc1 ft imm rs) := by
  refine (encodeI_and _ _ _ _ 0x3f#6 0x0#5 0x0#5 0x0#16).trans ?_
  simp; rfl
theorem j (target : Target) : Statement (.j target) := by
  refine (encodeJ_and _ 0x3f#6 _ 0x0#26).trans ?_
  simp; rfl
theorem jal (target : Target) : Statement (.jal target) := by
  refine (encodeJ_and _ 0x3f#6 _ 0x0#26).trans ?_
  simp; rfl
theorem addS (fd fs ft : Reg) : Statement (.addS fd fs ft) := by
  refine (fixed_encodeCop1 _ _ _ _ _ 0x1f#5 0x0#5 0x0#5 0x0#5 0x3f#6).trans ?_
  simp; rfl
theorem subS (fd fs ft : Reg) : Statement (.subS fd fs ft) := by
  refine (fixed_encodeCop1 _ _ _ _ _ 0x1f#5 0x0#5 0x0#5 0x0#5 0x3f#6).trans ?_
  simp; rfl
theorem mulS (fd fs ft : Reg) : Statement (.mulS fd fs ft) := by
  refine (fixed_encodeCop1 _ _ _ _ _ 0x1f#5 0x0#5 0x0#5 0x0#5 0x3f#6).trans ?_
  simp; rfl
theorem divS (fd fs ft : Reg) : Statement (.divS fd fs ft) := by
  refine (fixed_encodeCop1 _ _ _ _ _ 0x1f#5 0x0#5 0x0#5 0x0#5 0x3f#6).trans ?_
  simp; rfl
theorem movS (fd fs : Reg) : Statement (.movS fd fs) := by
  refine (fixed_encodeCop1 _ _ _ _ _ 0x1f#5 0x1f#5 0x0#5 0x0#5 0x3f#6).trans ?_
  simp; rfl
theorem cvtSW (fd fs : Reg) : Statement (.cvtSW fd fs) := by
  refine (fixed_encodeCop1 _ _ _ _ _ 0x1f#5 0x1f#5 0x0#5 0x0#5 0x3f#6).trans ?_
  simp; rfl
theorem cvtWS (fd fs : Reg) : Statement (.cvtWS fd fs) := by
  refine (fixed_encodeCop1 _ _ _ _ _ 0x1f#5 0x1f#5 0x0#5 0x0#5 0x3f#6).trans ?_
  simp; rfl
theorem mfc1 (rt fs : Reg) : Statement (.mfc1 rt fs) := by
  refine (fixed_encodeCop1 _ _ _ _ _ 0x1f#5 0x0#5 0x0#5 0x1f#5 0x3f#6).trans ?_
  simp; rfl
theorem mtc1 (rt fs : Reg) : Statement (.mtc1 rt fs) := by
  refine (fixed_encodeCop1 _ _ _ _ _ 0x1f#5 0x0#5 0x0#5 0x1f#5 0x3f#6).trans ?_
  simp; rfl

end Sys2Proof.Laws.EncodeRow
end

