-- ==== Sys2Proof/Certificates/Slice0/Obligations.lean ====
section
/-! DEFINITION. The statements for the provers. A statement about an instruction says how its word is coded, that it
completes, what it writes and that nothing else changes; hypotheses are on the state and the operands alone. -/

open Sys2Proof Sys2Proof.Machine

/-! ## Encoding (30_encoding.md) -/

/-- R102 with R82 to R94: decoding the word of an instruction gives that instruction, every operand at every value. -/
def Obligations.DecodeInvertsEncode : Prop := ∀ (strict : Bool) (i : Instr), decode strict (encode i) = .instr i

/-- R101, R102: under the strict decoder a word has at most one reading, and it is the word of that reading. -/
def Obligations.EncodeInvertsStrictDecode : Prop := ∀ (w : Word) (i : Instr), decode true w = .instr i → encode i = w

/-- R82 to R94: words written out field by field from the encoding decode to the instruction they stand for. -/
def Obligations.SampleWordsDecode : Prop :=
  decode true 0b00000000001000100001100000100000#32 = .instr (.add 3 1 2) ∧
  decode true 0b00000000000000100001100101000011#32 = .instr (.sra 3 2 5) ∧
  decode true 0b00000000001000100000000000011010#32 = .instr (.div 1 2) ∧
  decode true 0b00000000001000000001100000001001#32 = .instr (.jalr 3 1) ∧
  decode true 0b00000000000000000000000000001100#32 = .instr .syscall ∧
  decode true 0b00101000001000101000000000000001#32 = .instr (.slti 2 1 0x8001) ∧
  decode true 0b00000100001000011000000000000001#32 = .instr (.bgez 1 0x8001) ∧
  decode true 0b10001100001000101000000000000001#32 = .instr (.lw 2 0x8001 1) ∧
  decode true 0b11100100001000101000000000000001#32 = .instr (.swc1 2 0x8001 1) ∧
  decode true 0b00001100000100000000000000000110#32 = .instr (.jal 0x0100006) ∧
  decode true 0b01000110000000100000100011000011#32 = .instr (.divS 3 1 2) ∧
  decode true 0b01000100100000100000100000000000#32 = .instr (.mtc1 2 1)

/-- R88, R100, R227: the reserved words are exactly those of the six items, and fetching one raises
`ReservedInstruction(word)`. -/
def Obligations.ReservedWordsRaise : Prop :=
  (∀ (strict : Bool) (w : Word), decode strict w = .reserved ↔ ReservedSelector w) ∧
  ∀ (s : State) (w : Word), fetchedWord s = some w → Cp1Allows s w → ReservedSelector w →
    StopsWith (step s) s (.reservedInstruction w)

/-- R101: a word with a 1 bit in an unused field is refused when strict and decodes by its selector when lenient; the
lenient decoder ignores no other bit. -/
def Obligations.UnusedFieldBits : Prop :=
  (∀ (i : Instr) (m : Word), m &&& unusedMask i = m → decode false (encode i ||| m) = .instr i ∧
    (m ≠ 0#32 → decode true (encode i ||| m) = .unusedField)) ∧
  (∀ (i : Instr) (w : Word), decode false w = .instr i → ∃ m, m &&& unusedMask i = m ∧ w = encode i ||| m) ∧
  ∀ (s : State) (i : Instr) (w : Word), fetchedWord s = some w → Cp1Allows s w → decode false w = .instr i →
    w ≠ encode i → (s.params.strictUnused = true → step s = .refused (.unusedFieldNotZero w)) ∧
      (s.params.strictUnused = false → step s = exec i s)

/-- R96: the processor's target, its reach, and that it undoes the assembler's coding of a label. -/
def Obligations.BranchTargets : Prop :=
  ∀ (pc : Word) (imm : Imm),
    branchTarget pc imm = (pc + 4#32) + (imm ++ 0#2).signExtend 32 ∧
    branchTarget pc imm = (pc + 4#32) + (imm.signExtend 32 <<< 2) ∧
    branchTarget pc imm = (pc + 4#32) + BitVec.ofInt 32 (4 * imm.toInt) ∧
    (-131072 ≤ 4 * imm.toInt ∧ 4 * imm.toInt ≤ 131068) ∧
    branchTarget pc 0xFFFF#16 = pc ∧ branchTarget pc 0x0000#16 = pc + 4#32 ∧
    ∀ label, branchLabelInRange pc label = true →
      branchField pc label = ((label - (pc + 4#32)).sshiftRight 2).extractLsb' 0 16 ∧
      branchTarget pc (branchField pc label) = label

/-- R97: the processor's target, the labels a jump can reach, and that the target undoes the assembler's coding. -/
def Obligations.JumpTargets : Prop :=
  ∀ (pc : Word),
    (∀ target : Target, jumpTarget pc target = ((pc + 4#32).extractLsb' 28 4 ++ target ++ 0#2 : BitVec 32)) ∧
    (∀ label : Word, jumpField label = label.extractLsb' 2 26 ∧
      (jumpLabelInRange pc label = true → jumpTarget pc (jumpField label) = label) ∧
      ((∃ target, jumpTarget pc target = label) ↔ jumpLabelInRange pc label = true)) ∧
    (pc.extractLsb' 0 28 = 0xFFFFFFC#28 →
      ∀ target : Target, (jumpTarget pc target).extractLsb' 28 4 = pc.extractLsb' 28 4 + 1#4)

/-! ## The step (10_state.md, 20_memory.md, 60_exceptions.md) -/

/-- 10_state.md R30: when the fetched word decodes to `i`, the step is `exec i` at the same state, and nothing is added
around it. -/
def Obligations.StepRunsDecodedInstruction : Prop :=
  ∀ (s : State) (w : Word) (i : Instr), fetchedWord s = some w → Cp1Allows s w →
    decode s.params.strictUnused w = .instr i → step s = exec i s

/-- 20_memory.md R55 with R53: which byte of memory holds which bits of the fetched word. -/
def Obligations.FetchByteOrder : Prop :=
  ∀ (s : State) (b0 b1 b2 b3 : Byte), s.pc.toNat % 4 = 0 → AllBytesIn s.params.memAlloc s.pc 4 →
    AllBytesIn s.params.text s.pc 4 → Memory.read s.mem s.pc.toNat = some b0 →
    Memory.read s.mem (s.pc + 1#32).toNat = some b1 → Memory.read s.mem (s.pc + 2#32).toNat = some b2 →
    Memory.read s.mem (s.pc + 3#32).toNat = some b3 →
    (s.params.endian = .big → fetchedWord s = some (b0 ++ b1 ++ b2 ++ b3 : BitVec 32)) ∧
    (s.params.endian = .little → fetchedWord s = some (b3 ++ b2 ++ b1 ++ b0 : BitVec 32))

/-- 60_exceptions.md R223 items 1 and 2, 20_memory.md R56, R60, R68, 10_state.md R40: the fetch's stops and their order.
The place of the last two and the fault on a byte without a value are the model's (logs 8 and 18). -/
def Obligations.FetchStopsInOrder : Prop :=
  ∀ (s : State),
    (s.pc.toNat % 4 ≠ 0 → StopsWith (step s) s (.addressErrorFetch s.pc)) ∧
    (s.pc.toNat % 4 = 0 → ¬AllBytesIn s.params.memAlloc s.pc 4 → StopsWith (step s) s (.unallocatedAccess s.pc)) ∧
    (s.pc.toNat % 4 = 0 → AllBytesIn s.params.memAlloc s.pc 4 → ¬AllBytesIn s.params.text s.pc 4 →
      step s = .refused (.fetchOutsideText s.pc)) ∧
    (s.pc.toNat % 4 = 0 → AllBytesIn s.params.memAlloc s.pc 4 → AllBytesIn s.params.text s.pc 4 →
      (∃ k, k < 4 ∧ Memory.read s.mem (s.pc + BitVec.ofNat 32 k).toNat = none) → step s = .fault (.noValue s.pc))

/-- 60_exceptions.md R231, 47_cp1_float.md R214: `CoprocessorUnusable(1)`, from the fetched word and from the instruction;
never when `CP1_USABLE = true`, the default; never for coprocessors 0, 2 and 3. -/
def Obligations.CoprocessorUnusable : Prop :=
  (∀ (s : State) (w : Word), fetchedWord s = some w → s.params.cp1Usable = false → IsCp1Opcode w →
    StopsWith (step s) s (.coprocessorUnusable 1)) ∧
  (∀ (s : State) (i : Instr), s.params.cp1Usable = false → usesCp1 i = true → Stops i s (.coprocessorUnusable 1)) ∧
  (∀ (s t : State) (n : Nat) (epc : Word) (d : Bool), s.params.cp1Usable = true →
    step s ≠ .fault (.stopped (.coprocessorUnusable n) epc d t)) ∧
  Params.default.cp1Usable = true ∧
  ∀ (s : State) (w : Word), fetchedWord s = some w → opcodeOf w ∈ [0x10#6, 0x12#6, 0x13#6] →
    StopsWith (step s) s (.reservedInstruction w)

/-- The model's own loader (log 25): placing the word of `i` at an aligned `pc` makes the next step run `i`, with no
register changed. -/
def Obligations.PlacedWordRunsNext : Prop :=
  ∀ (s : State) (i : Instr), s.pc.toNat % 4 = 0 → (s.params.cp1Usable = true ∨ usesCp1 i = false) →
    step (s.withFetchWord 32 (encode i).toNat) = exec i (s.withFetchWord 32 (encode i).toNat) ∧
    GprsSame s (s.withFetchWord 32 (encode i).toNat) ∧ FprsSame s (s.withFetchWord 32 (encode i).toNat) ∧
    HiLoSame s (s.withFetchWord 32 (encode i).toNat) ∧ (s.withFetchWord 32 (encode i).toNat).pc = s.pc

/-! ## R-type arithmetic, logic and comparison (40_rtype_alu.md) -/

/-- R121, R123: `addu` and `subu`, modulo 2^32. -/
def Obligations.UnsignedAddAndSubtract : Prop :=
  ∀ (s : State) (rd rs rt : Reg), NoLoadedUse s [.gpr rs, .gpr rt] →
    (CodedR (.addu rd rs rt) rs rt rd 0 0b100001#6 ∧
      WritesX (.addu rd rs rt) s rd (BitVec.ofNat 32 ((readX s rs).toNat + (readX s rt).toNat)) none) ∧
    (CodedR (.subu rd rs rt) rs rt rd 0 0b100011#6 ∧
      WritesX (.subu rd rs rt) s rd (BitVec.ofInt 32 ((readX s rs).toNat - (readX s rt).toNat)) none)

/-- R124 to R127: `and`, `or`, `xor`, `nor`, bit by bit. -/
def Obligations.RegisterLogic : Prop :=
  ∀ (s : State) (rd rs rt : Reg), NoLoadedUse s [.gpr rs, .gpr rt] →
    (CodedR (.and rd rs rt) rs rt rd 0 0b100100#6 ∧ ∃ v, WritesX (.and rd rs rt) s rd v none ∧
      ∀ k, k < 32 → v.getLsbD k = ((readX s rs).getLsbD k && (readX s rt).getLsbD k)) ∧
    (CodedR (.or rd rs rt) rs rt rd 0 0b100101#6 ∧ ∃ v, WritesX (.or rd rs rt) s rd v none ∧
      ∀ k, k < 32 → v.getLsbD k = ((readX s rs).getLsbD k || (readX s rt).getLsbD k)) ∧
    (CodedR (.xor rd rs rt) rs rt rd 0 0b100110#6 ∧ ∃ v, WritesX (.xor rd rs rt) s rd v none ∧
      ∀ k, k < 32 → v.getLsbD k = ((readX s rs).getLsbD k != (readX s rt).getLsbD k)) ∧
    (CodedR (.nor rd rs rt) rs rt rd 0 0b100111#6 ∧ ∃ v, WritesX (.nor rd rs rt) s rd v none ∧
      ∀ k, k < 32 → v.getLsbD k = !((readX s rs).getLsbD k || (readX s rt).getLsbD k))

/-- R128, R129: `slt` compares signed values, `sltu` unsigned values; 1 is written, or 0. -/
def Obligations.SetOnLessThan : Prop :=
  ∀ (s : State) (rd rs rt : Reg), NoLoadedUse s [.gpr rs, .gpr rt] →
    CodedR (.slt rd rs rt) rs rt rd 0 0b101010#6 ∧ CodedR (.sltu rd rs rt) rs rt rd 0 0b101011#6 ∧
    ((readX s rs).toInt < (readX s rt).toInt → WritesX (.slt rd rs rt) s rd 1#32 none) ∧
    (¬(readX s rs).toInt < (readX s rt).toInt → WritesX (.slt rd rs rt) s rd 0#32 none) ∧
    ((readX s rs).toNat < (readX s rt).toNat → WritesX (.sltu rd rs rt) s rd 1#32 none) ∧
    (¬(readX s rs).toNat < (readX s rt).toNat → WritesX (.sltu rd rs rt) s rd 0#32 none)

/-- R120, R122, 43_itype_alu_imm.md R160: `add`, `sub` and `addi` write the result unless the sign bits show overflow, and
then raise `IntegerOverflow`, for every destination. -/
def Obligations.SignedAddSubtractTraps : Prop :=
  (∀ (s : State) (rd rs rt : Reg) (a b z : Word), NoLoadedUse s [.gpr rs, .gpr rt] →
    a = readX s rs → b = readX s rt → z = a + b → CodedR (.add rd rs rt) rs rt rd 0 0b100000#6 ∧
    (a.getLsbD 31 = b.getLsbD 31 ∧ z.getLsbD 31 ≠ a.getLsbD 31 → Stops (.add rd rs rt) s .integerOverflow) ∧
    (¬(a.getLsbD 31 = b.getLsbD 31 ∧ z.getLsbD 31 ≠ a.getLsbD 31) → WritesX (.add rd rs rt) s rd z none)) ∧
  (∀ (s : State) (rd rs rt : Reg) (a b d : Word), NoLoadedUse s [.gpr rs, .gpr rt] →
    a = readX s rs → b = readX s rt → d = a - b → CodedR (.sub rd rs rt) rs rt rd 0 0b100010#6 ∧
    (a.getLsbD 31 ≠ b.getLsbD 31 ∧ d.getLsbD 31 ≠ a.getLsbD 31 → Stops (.sub rd rs rt) s .integerOverflow) ∧
    (¬(a.getLsbD 31 ≠ b.getLsbD 31 ∧ d.getLsbD 31 ≠ a.getLsbD 31) → WritesX (.sub rd rs rt) s rd d none)) ∧
  ∀ (s : State) (rt rs : Reg) (imm : Imm) (a b z : Word), NoLoadedUse s [.gpr rs] →
    a = readX s rs → b = imm.signExtend 32 → z = a + b → CodedI (.addi rt rs imm) 0b001000#6 rs rt imm ∧
    (a.getLsbD 31 = b.getLsbD 31 ∧ z.getLsbD 31 ≠ a.getLsbD 31 → Stops (.addi rt rs imm) s .integerOverflow) ∧
    (¬(a.getLsbD 31 = b.getLsbD 31 ∧ z.getLsbD 31 ≠ a.getLsbD 31) → WritesX (.addi rt rs imm) s rt z none)

/-- R137, 60_exceptions.md R225: the trap is taken exactly when the mathematical result is outside -2^31 to 2^31 - 1, and
by no other instruction. -/
def Obligations.OverflowIsOutOfRange : Prop :=
  (∀ (s : State) (rd rs rt : Reg), NoLoadedUse s [.gpr rs, .gpr rt] →
    (Stops (.add rd rs rt) s .integerOverflow ↔
      ((readX s rs).toInt + (readX s rt).toInt < -2147483648 ∨ 2147483647 < (readX s rs).toInt + (readX s rt).toInt)) ∧
    (Stops (.sub rd rs rt) s .integerOverflow ↔
      ((readX s rs).toInt - (readX s rt).toInt < -2147483648 ∨ 2147483647 < (readX s rs).toInt - (readX s rt).toInt))) ∧
  (∀ (s : State) (rt rs : Reg) (imm : Imm), NoLoadedUse s [.gpr rs] →
    (Stops (.addi rt rs imm) s .integerOverflow ↔
      ((readX s rs).toInt + imm.toInt < -2147483648 ∨ 2147483647 < (readX s rs).toInt + imm.toInt))) ∧
  (∀ a b : Word, (a.toInt + b.toInt < -2147483648 ∨ 2147483647 < a.toInt + b.toInt) ↔
    (a.getLsbD 31 = b.getLsbD 31 ∧ (a + b).getLsbD 31 ≠ a.getLsbD 31)) ∧
  (∀ a b : Word, (a.toInt - b.toInt < -2147483648 ∨ 2147483647 < a.toInt - b.toInt) ↔
    (a.getLsbD 31 ≠ b.getLsbD 31 ∧ (a - b).getLsbD 31 ≠ a.getLsbD 31)) ∧
  ∀ (i : Instr) (s t : State) (epc : Word) (d : Bool), exec i s = .fault (.stopped .integerOverflow epc d t) →
    GprsSame s t ∧
    ((∃ rd rs rt, i = .add rd rs rt) ∨ (∃ rt rs imm, i = .addi rt rs imm) ∨ ∃ rd rs rt, i = .sub rd rs rt)

/-! ## Shifts (40_rtype_alu.md) -/

/-- R130 to R132: shifts by `sa`, bit by bit; `sra` is division by 2^sa rounded toward minus infinity. -/
def Obligations.ConstantShifts : Prop :=
  ∀ (s : State) (rd rt : Reg) (sa : Shamt), NoLoadedUse s [.gpr rt] →
    (CodedR (.sll rd rt sa) 0 rt rd sa 0b000000#6 ∧ ∃ v, WritesX (.sll rd rt sa) s rd v none ∧
      ∀ k, k < 32 → v.getLsbD k = (decide (sa.toNat ≤ k) && (readX s rt).getLsbD (k - sa.toNat))) ∧
    (CodedR (.srl rd rt sa) 0 rt rd sa 0b000010#6 ∧ ∃ v, WritesX (.srl rd rt sa) s rd v none ∧
      ∀ k, k < 32 → v.getLsbD k = (decide (k + sa.toNat < 32) && (readX s rt).getLsbD (k + sa.toNat))) ∧
    (CodedR (.sra rd rt sa) 0 rt rd sa 0b000011#6 ∧ ∃ v, WritesX (.sra rd rt sa) s rd v none ∧
      (∀ k, k < 32 → v.getLsbD k = (readX s rt).getLsbD (min (k + sa.toNat) 31)) ∧
      v.toInt = (readX s rt).toInt / (2 ^ sa.toNat : Nat))

/-- R133 to R135: shifts by the low five bits of `x[rs]`, bit by bit. -/
def Obligations.VariableShifts : Prop :=
  ∀ (s : State) (rd rt rs : Reg) (n : Nat), NoLoadedUse s [.gpr rt, .gpr rs] → n = (readX s rs).toNat % 32 →
    (CodedR (.sllv rd rt rs) rs rt rd 0 0b000100#6 ∧ ∃ v, WritesX (.sllv rd rt rs) s rd v none ∧
      ∀ k, k < 32 → v.getLsbD k = (decide (n ≤ k) && (readX s rt).getLsbD (k - n))) ∧
    (CodedR (.srlv rd rt rs) rs rt rd 0 0b000110#6 ∧ ∃ v, WritesX (.srlv rd rt rs) s rd v none ∧
      ∀ k, k < 32 → v.getLsbD k = (decide (k + n < 32) && (readX s rt).getLsbD (k + n))) ∧
    (CodedR (.srav rd rt rs) rs rt rd 0 0b000111#6 ∧ ∃ v, WritesX (.srav rd rt rs) s rd v none ∧
      ∀ k, k < 32 → v.getLsbD k = (readX s rt).getLsbD (min (k + n) 31))

/-! ## Multiply, divide, HI and LO (41_rtype_muldiv.md) -/

/-- R140, R141: `HI` and `LO` together are the 64-bit product, signed and unsigned. -/
def Obligations.MultiplyIsExact : Prop :=
  ∀ (s : State) (rs rt : Reg), NoLoadedUse s [.gpr rs, .gpr rt] →
    (CodedR (.mult rs rt) rs rt 0 0 0b011000#6 ∧ WritesHiLo (.mult rs rt) s fun hi lo =>
      hi.toInt * 4294967296 + lo.toNat = (readX s rs).toInt * (readX s rt).toInt) ∧
    (CodedR (.multu rs rt) rs rt 0 0 0b011001#6 ∧ WritesHiLo (.multu rs rt) s fun hi lo =>
      hi.toNat * 4294967296 + lo.toNat = (readX s rs).toNat * (readX s rt).toNat)

/-- R142: `div` truncates toward zero and the remainder has the sign of the dividend; a zero divisor and -2^31 / -1 leave
the free value `DIV_RESULT`; it never raises. -/
def Obligations.SignedDivide : Prop :=
  ∀ (s : State) (rs rt : Reg) (n d : Int), NoLoadedUse s [.gpr rs, .gpr rt] →
    n = (readX s rs).toInt → d = (readX s rt).toInt → CodedR (.div rs rt) rs rt 0 0 0b011010#6 ∧
    (¬(d = 0 ∨ (n = -2147483648 ∧ d = -1)) → WritesHiLo (.div rs rt) s fun hi lo =>
      lo.toInt * d + hi.toInt = n ∧ hi.toInt.natAbs < d.natAbs ∧ (0 ≤ n → 0 ≤ hi.toInt) ∧ (n ≤ 0 → hi.toInt ≤ 0)) ∧
    ((d = 0 ∨ (n = -2147483648 ∧ d = -1)) → WritesHiLo (.div rs rt) s fun hi lo =>
      (hi, lo) = Config.divResult .div (readX s rs) (readX s rt))

/-- R143: `divu` is the floor quotient and the remainder; a zero divisor leaves the free value `DIV_RESULT`. -/
def Obligations.UnsignedDivide : Prop :=
  ∀ (s : State) (rs rt : Reg), NoLoadedUse s [.gpr rs, .gpr rt] → CodedR (.divu rs rt) rs rt 0 0 0b011011#6 ∧
    (readX s rt ≠ 0#32 → WritesHiLo (.divu rs rt) s fun hi lo =>
      lo.toNat * (readX s rt).toNat + hi.toNat = (readX s rs).toNat ∧ hi.toNat < (readX s rt).toNat) ∧
    (readX s rt = 0#32 → WritesHiLo (.divu rs rt) s fun hi lo =>
      (hi, lo) = Config.divResult .divu (readX s rs) (readX s rt))

/-- R144 to R147: the moves to and from `HI` and `LO`; `mthi` leaves `LO` and `mtlo` leaves `HI` as it is. -/
def Obligations.HiLoMoves : Prop :=
  ∀ (s : State) (r : Reg),
    (CodedR (.mfhi r) 0 0 r 0 0b010000#6 ∧ WritesX (.mfhi r) s r s.hi none) ∧
    (CodedR (.mflo r) 0 0 r 0 0b010010#6 ∧ WritesX (.mflo r) s r s.lo none) ∧
    (CodedR (.mthi r) r 0 0 0 0b010001#6 ∧ (NoLoadedUse s [.gpr r] →
      WritesHiLo (.mthi r) s fun hi lo => hi = readX s r ∧ lo = s.lo)) ∧
    (CodedR (.mtlo r) r 0 0 0 0b010011#6 ∧ (NoLoadedUse s [.gpr r] →
      WritesHiLo (.mtlo r) s fun hi lo => hi = s.hi ∧ lo = readX s r))

/-- 10_state.md R24: `HI` and `LO` are written only by the six instructions of 41_rtype_muldiv.md that name them, and their
values matter to no instruction but `mfhi` and `mflo`. -/
def Obligations.HiLoReadAndWrittenOnlyThere : Prop :=
  (∀ (i : Instr) (s t : State), exec i s = .next t → t.hi ≠ s.hi ∨ t.lo ≠ s.lo →
    (∃ r, i = .mthi r ∨ i = .mtlo r) ∨
    ∃ rs rt, i = .mult rs rt ∨ i = .multu rs rt ∨ i = .div rs rt ∨ i = .divu rs rt) ∧
  ∀ (i : Instr) (s t : State) (h l : Word), exec i s = .next t → (∀ r, i ≠ .mfhi r ∧ i ≠ .mflo r) →
    ∃ u, exec i { s with hi := h, lo := l } = .next u ∧ u.x = t.x ∧ u.f = t.f ∧ u.mem = t.mem ∧ u.pc = t.pc ∧
      u.npc = t.npc ∧ u.ds = t.ds ∧ u.ld = t.ld ∧ u.params = t.params

/-! ## Immediates (43_itype_alu_imm.md) -/

/-- R161 to R163: the immediate is sign-extended for all three; `sltiu` then compares unsigned. -/
def Obligations.ArithmeticImmediates : Prop :=
  ∀ (s : State) (rt rs : Reg) (imm : Imm), NoLoadedUse s [.gpr rs] →
    (CodedI (.addiu rt rs imm) 0b001001#6 rs rt imm ∧
      WritesX (.addiu rt rs imm) s rt (BitVec.ofInt 32 ((readX s rs).toInt + imm.toInt)) none) ∧
    CodedI (.slti rt rs imm) 0b001010#6 rs rt imm ∧ CodedI (.sltiu rt rs imm) 0b001011#6 rs rt imm ∧
    ((readX s rs).toInt < imm.toInt → WritesX (.slti rt rs imm) s rt 1#32 none) ∧
    (¬(readX s rs).toInt < imm.toInt → WritesX (.slti rt rs imm) s rt 0#32 none) ∧
    ((readX s rs).toNat < (imm.signExtend 32).toNat → WritesX (.sltiu rt rs imm) s rt 1#32 none) ∧
    (¬(readX s rs).toNat < (imm.signExtend 32).toNat → WritesX (.sltiu rt rs imm) s rt 0#32 none)

/-- R164 to R167: the immediate is zero-extended for the logical instructions, and is the upper half for `lui`. -/
def Obligations.LogicalImmediates : Prop :=
  ∀ (s : State) (rt rs : Reg) (imm : Imm),
    (CodedI (.lui rt imm) 0b001111#6 0 rt imm ∧ ∃ v, WritesX (.lui rt imm) s rt v none ∧
      v.toNat = imm.toNat * 65536) ∧
    (NoLoadedUse s [.gpr rs] →
      (CodedI (.andi rt rs imm) 0b001100#6 rs rt imm ∧ ∃ v, WritesX (.andi rt rs imm) s rt v none ∧
        ∀ k, k < 32 → v.getLsbD k = ((readX s rs).getLsbD k && (decide (k < 16) && imm.getLsbD k))) ∧
      (CodedI (.ori rt rs imm) 0b001101#6 rs rt imm ∧ ∃ v, WritesX (.ori rt rs imm) s rt v none ∧
        ∀ k, k < 32 → v.getLsbD k = ((readX s rs).getLsbD k || (decide (k < 16) && imm.getLsbD k))) ∧
      (CodedI (.xori rt rs imm) 0b001110#6 rs rt imm ∧ ∃ v, WritesX (.xori rt rs imm) s rt v none ∧
        ∀ k, k < 32 → v.getLsbD k = ((readX s rs).getLsbD k != (decide (k < 16) && imm.getLsbD k))))

/-! ## Branches and jumps (44_itype_branch.md, 42_rtype_jump_system.md, 46_jtype.md) -/

/-- R170 to R175: each branch completes outside a delay slot, goes to its target exactly on its condition, and writes
nothing else. -/
def Obligations.ConditionalBranches : Prop :=
  ∀ (s : State) (rs rt : Reg) (imm : Imm), NotInSlot s →
    CodedI (.bltz rs imm) 0b000001#6 rs 0b00000#5 imm ∧ CodedI (.bgez rs imm) 0b000001#6 rs 0b00001#5 imm ∧
    CodedI (.beq rs rt imm) 0b000100#6 rs rt imm ∧ CodedI (.bne rs rt imm) 0b000101#6 rs rt imm ∧
    CodedI (.blez rs imm) 0b000110#6 rs 0b00000#5 imm ∧ CodedI (.bgtz rs imm) 0b000111#6 rs 0b00000#5 imm ∧
    (NoLoadedUse s [.gpr rs] →
      BranchesOn (.bltz rs imm) s imm ((readX s rs).getLsbD 31 = true) ∧
      BranchesOn (.bgez rs imm) s imm ((readX s rs).getLsbD 31 = false) ∧
      BranchesOn (.blez rs imm) s imm ((readX s rs).getLsbD 31 = true ∨ readX s rs = 0#32) ∧
      BranchesOn (.bgtz rs imm) s imm ((readX s rs).getLsbD 31 = false ∧ readX s rs ≠ 0#32)) ∧
    (NoLoadedUse s [.gpr rs, .gpr rt] →
      BranchesOn (.beq rs rt imm) s imm (readX s rs = readX s rt) ∧
      BranchesOn (.bne rs rt imm) s imm (readX s rs ≠ readX s rt))

/-- R150, R151 with 10_state.md R33 and R35: the whole of `x[rs]` is the target, read before the link is written; a
misaligned target faults at its fetch, after the link. -/
def Obligations.RegisterJumps : Prop :=
  (∀ (s : State) (rd rs : Reg), NotInSlot s → NoLoadedUse s [.gpr rs] →
    (CodedR (.jr rs) rs 0 0 0 0b001000#6 ∧ Jumps (.jr rs) s (readX s rs)) ∧
    (CodedR (.jalr rd rs) rs 0 rd 0 0b001001#6 ∧ JumpsAndLinks (.jalr rd rs) s (readX s rs) rd
      (if s.params.branchDelay = true then s.pc + 8#32 else s.pc + 4#32))) ∧
  ∀ (i : Instr) (s t : State) (rd rs : Reg), i = .jr rs ∨ i = .jalr rd rs → exec i s = .next t →
    (readX s rs).toNat % 4 ≠ 0 →
    (s.params.branchDelay = false → StopsWith (step t) t (.addressErrorFetch (readX s rs))) ∧
    (s.params.branchDelay = true → ∀ u, step t = .next u → StopsWith (step u) u (.addressErrorFetch (readX s rs)))

/-- R195, R196: `j` and `jal` go to the region target; `jal` links register 31. -/
def Obligations.RegionJumps : Prop :=
  ∀ (s : State) (target : Target), NotInSlot s →
    (CodedJ (.j target) 0b000010#6 target ∧
      Jumps (.j target) s ((s.pc + 4#32).extractLsb' 28 4 ++ target ++ 0#2 : BitVec 32)) ∧
    (CodedJ (.jal target) 0b000011#6 target ∧
      JumpsAndLinks (.jal target) s ((s.pc + 4#32).extractLsb' 28 4 ++ target ++ 0#2 : BitVec 32) 31
        (if s.params.branchDelay = true then s.pc + 8#32 else s.pc + 4#32))

/-- With `BRANCH_DELAY = true`, `npc` is the next instruction's address and `ds` is set exactly after the ten control
transfers (10_state.md R26), an instruction that is none advances `npc` by 4 (R30), and a branch or jump in a delay slot is
refused (R32 (a)). With `false` R26 has neither; that State keeps both and that they are inert is the model's choice (log
9). -/
def Obligations.DelaySlotState : Prop :=
  (∀ (i : Instr) (s t : State), s.params.branchDelay = true → exec i s = .next t →
    t.pc = s.npc ∧ t.ds = isControlTransfer i ∧ (isControlTransfer i = false → t.npc = s.npc + 4#32)) ∧
  (∀ (i : Instr) (s : State), isControlTransfer i = true → s.params.branchDelay = true → s.ds = true →
    exec i s = .refused .controlTransferInDelaySlot) ∧
  ∀ (s t : State) (n : Word) (d : Bool), s.params.branchDelay = false → step s = .next t →
    step { s with npc := n, ds := d } = .next { t with npc := n, ds := d }

/-- 70_reset_and_hazards.md R255: a control transfer other than `jal` and `jalr` that is followed by the word
`0x00000000` reaches the same registers, memory and address with a delay slot as without. -/
def Obligations.DelaySlotNopAgrees : Prop :=
  ∀ (i : Instr) (s t : State), s.params.branchDelay = true → s.ds = false → s.npc = s.pc + 4#32 →
    isControlTransfer i = true → (∀ rd rs, i ≠ .jalr rd rs) → (∀ target, i ≠ .jal target) → exec i s = .next t →
    fetchedWord t = some 0x00000000#32 →
    ∃ u v, step t = .next u ∧ exec i (withoutBranchDelay s) = .next v ∧ GprsSame u v ∧ FprsSame u v ∧ HiLoSame u v ∧
      MemSame u v ∧ (v.pc = u.pc ∨ (v.pc = s.pc + 4#32 ∧ ∃ w, step v = .next w ∧ w.pc = u.pc ∧ GprsSame u w ∧
        FprsSame u w ∧ HiLoSame u w ∧ MemSame u w))

/-- 10_state.md R25, R35: `pc` stays a multiple of 4 under every instruction but a `jr` or `jalr` to another value. -/
def Obligations.ProgramCounterStaysAligned : Prop :=
  ∀ (i : Instr) (s t : State), exec i s = .next t →
    (∀ rd rs, i = .jr rs ∨ i = .jalr rd rs → (readX s rs).toNat % 4 = 0) → s.pc.toNat % 4 = 0 →
    (s.params.branchDelay = false → t.pc.toNat % 4 = 0) ∧
    (s.params.branchDelay = true → s.npc.toNat % 4 = 0 → t.pc.toNat % 4 = 0 ∧ t.npc.toNat % 4 = 0)

/-! ## Loads and stores (45_itype_load_store.md, 20_memory.md) -/

/-- R180, R183: a byte is sign-extended or zero-extended; it has no alignment. -/
def Obligations.LoadBytes : Prop :=
  ∀ (s : State) (rt rs : Reg) (imm : Imm) (ea : Word), NoLoadedUse s [.gpr rs] → ea = readX s rs + imm.signExtend 32 →
    CodedI (.lb rt imm rs) 0b100000#6 rs rt imm ∧ CodedI (.lbu rt imm rs) 0b100100#6 rs rt imm ∧
    (inSet s.params.memAlloc ea.toNat = false → Stops (.lb rt imm rs) s (.unallocatedAccess ea) ∧
      Stops (.lbu rt imm rs) s (.unallocatedAccess ea)) ∧
    ∀ b, inSet s.params.memAlloc ea.toNat = true → Memory.read s.mem ea.toNat = some b →
      WritesX (.lb rt imm rs) s rt (b.signExtend 32) (loadedBy (.lb rt imm rs)) ∧
      WritesX (.lbu rt imm rs) s rt (b.setWidth 32) (loadedBy (.lbu rt imm rs))

/-- R181, R184: a halfword needs an even address, is put together by `ENDIAN`, and is sign-extended or zero-extended. -/
def Obligations.LoadHalfwords : Prop :=
  ∀ (s : State) (rt rs : Reg) (imm : Imm) (ea : Word), NoLoadedUse s [.gpr rs] → ea = readX s rs + imm.signExtend 32 →
    CodedI (.lh rt imm rs) 0b100001#6 rs rt imm ∧ CodedI (.lhu rt imm rs) 0b100101#6 rs rt imm ∧
    (ea.toNat % 2 ≠ 0 → Stops (.lh rt imm rs) s (.addressErrorLoad ea) ∧
      Stops (.lhu rt imm rs) s (.addressErrorLoad ea)) ∧
    (ea.toNat % 2 = 0 → ¬AllBytesIn s.params.memAlloc ea 2 → Stops (.lh rt imm rs) s (.unallocatedAccess ea) ∧
      Stops (.lhu rt imm rs) s (.unallocatedAccess ea)) ∧
    ∀ (b0 b1 : Byte) (v : BitVec 16), ea.toNat % 2 = 0 → AllBytesIn s.params.memAlloc ea 2 →
      Memory.read s.mem ea.toNat = some b0 → Memory.read s.mem (ea + 1#32).toNat = some b1 →
      v = (if s.params.endian = .big then b0 ++ b1 else b1 ++ b0) →
      WritesX (.lh rt imm rs) s rt (v.signExtend 32) (loadedBy (.lh rt imm rs)) ∧
      WritesX (.lhu rt imm rs) s rt (v.setWidth 32) (loadedBy (.lhu rt imm rs))

/-- R182, R188: a word needs an address that is a multiple of 4 and is put together by `ENDIAN`; `lwc1` does the same into
a floating-point register when coprocessor 1 is usable. -/
def Obligations.LoadWords : Prop :=
  ∀ (s : State) (rt rs : Reg) (imm : Imm) (ea : Word), NoLoadedUse s [.gpr rs] → ea = readX s rs + imm.signExtend 32 →
    CodedI (.lw rt imm rs) 0b100011#6 rs rt imm ∧ CodedI (.lwc1 rt imm rs) 0b110001#6 rs rt imm ∧
    (s.params.cp1Usable = false → Stops (.lwc1 rt imm rs) s (.coprocessorUnusable 1)) ∧
    (ea.toNat % 4 ≠ 0 → Stops (.lw rt imm rs) s (.addressErrorLoad ea) ∧
      (s.params.cp1Usable = true → Stops (.lwc1 rt imm rs) s (.addressErrorLoad ea))) ∧
    (ea.toNat % 4 = 0 → ¬AllBytesIn s.params.memAlloc ea 4 → Stops (.lw rt imm rs) s (.unallocatedAccess ea) ∧
      (s.params.cp1Usable = true → Stops (.lwc1 rt imm rs) s (.unallocatedAccess ea))) ∧
    ∀ (b0 b1 b2 b3 : Byte) (v : Word), ea.toNat % 4 = 0 → AllBytesIn s.params.memAlloc ea 4 →
      Memory.read s.mem ea.toNat = some b0 → Memory.read s.mem (ea + 1#32).toNat = some b1 →
      Memory.read s.mem (ea + 2#32).toNat = some b2 → Memory.read s.mem (ea + 3#32).toNat = some b3 →
      v = (if s.params.endian = .big then b0 ++ b1 ++ b2 ++ b3 else b3 ++ b2 ++ b1 ++ b0) →
      WritesX (.lw rt imm rs) s rt v (loadedBy (.lw rt imm rs)) ∧
      (s.params.cp1Usable = true → WritesF (.lwc1 rt imm rs) s rt v (some (.fpr rt)))

/-- R185, R186: the low byte or halfword of `x[rt]` is stored, by `ENDIAN`, and no other byte changes. -/
def Obligations.StoreBytesAndHalfwords : Prop :=
  ∀ (s : State) (rt rs : Reg) (imm : Imm) (ea : Word), NoLoadedUse s [.gpr rs, .gpr rt] →
    ea = readX s rs + imm.signExtend 32 →
    CodedI (.sb rt imm rs) 0b101000#6 rs rt imm ∧ CodedI (.sh rt imm rs) 0b101001#6 rs rt imm ∧
    (inSet s.params.memAlloc ea.toNat = false → Stops (.sb rt imm rs) s (.unallocatedAccess ea)) ∧
    (inSet s.params.memAlloc ea.toNat = true → inSet s.params.text ea.toNat = true →
      exec (.sb rt imm rs) s = .refused (.storeIntoText ea)) ∧
    (inSet s.params.memAlloc ea.toNat = true → inSet s.params.text ea.toNat = false →
      Stores (.sb rt imm rs) s ea 1 (readX s rt)) ∧
    (ea.toNat % 2 ≠ 0 → Stops (.sh rt imm rs) s (.addressErrorStore ea)) ∧
    (ea.toNat % 2 = 0 → ¬AllBytesIn s.params.memAlloc ea 2 → Stops (.sh rt imm rs) s (.unallocatedAccess ea)) ∧
    (ea.toNat % 2 = 0 → AllBytesIn s.params.memAlloc ea 2 → ¬NoByteIn s.params.text ea 2 →
      exec (.sh rt imm rs) s = .refused (.storeIntoText ea)) ∧
    (ea.toNat % 2 = 0 → AllBytesIn s.params.memAlloc ea 2 → NoByteIn s.params.text ea 2 →
      Stores (.sh rt imm rs) s ea 2 (readX s rt))

/-- R187, R189: the word of `x[rt]` or `f[ft]` is stored, by `ENDIAN`, and no other byte changes. -/
def Obligations.StoreWords : Prop :=
  ∀ (s : State) (rt rs : Reg) (imm : Imm) (ea : Word), ea = readX s rs + imm.signExtend 32 →
    CodedI (.sw rt imm rs) 0b101011#6 rs rt imm ∧ CodedI (.swc1 rt imm rs) 0b111001#6 rs rt imm ∧
    (NoLoadedUse s [.gpr rs, .gpr rt] →
      (ea.toNat % 4 ≠ 0 → Stops (.sw rt imm rs) s (.addressErrorStore ea)) ∧
      (ea.toNat % 4 = 0 → ¬AllBytesIn s.params.memAlloc ea 4 → Stops (.sw rt imm rs) s (.unallocatedAccess ea)) ∧
      (ea.toNat % 4 = 0 → AllBytesIn s.params.memAlloc ea 4 → ¬NoByteIn s.params.text ea 4 →
        exec (.sw rt imm rs) s = .refused (.storeIntoText ea)) ∧
      (ea.toNat % 4 = 0 → AllBytesIn s.params.memAlloc ea 4 → NoByteIn s.params.text ea 4 →
        Stores (.sw rt imm rs) s ea 4 (readX s rt))) ∧
    (s.params.cp1Usable = false → Stops (.swc1 rt imm rs) s (.coprocessorUnusable 1)) ∧
    (s.params.cp1Usable = true → NoLoadedUse s [.gpr rs, .fpr rt] →
      (ea.toNat % 4 ≠ 0 → Stops (.swc1 rt imm rs) s (.addressErrorStore ea)) ∧
      (ea.toNat % 4 = 0 → ¬AllBytesIn s.params.memAlloc ea 4 → Stops (.swc1 rt imm rs) s (.unallocatedAccess ea)) ∧
      (ea.toNat % 4 = 0 → AllBytesIn s.params.memAlloc ea 4 → ¬NoByteIn s.params.text ea 4 →
        exec (.swc1 rt imm rs) s = .refused (.storeIntoText ea)) ∧
      (ea.toNat % 4 = 0 → AllBytesIn s.params.memAlloc ea 4 → NoByteIn s.params.text ea 4 →
        Stores (.swc1 rt imm rs) s ea 4 (readF s rt)))

/-- 20_memory.md R57: a misaligned halfword or word access raises its address error, whatever the allocation; an aligned
one, and every byte access, never does. -/
def Obligations.MisalignedDataAccess : Prop :=
  (∀ (rt rs : Reg) (imm : Imm), (∀ i ∈ [Instr.lh rt imm rs, .lhu rt imm rs], dataAccess i = some ⟨false, rs, imm, 2⟩) ∧
    dataAccess (.sh rt imm rs) = some ⟨true, rs, imm, 2⟩ ∧
    (∀ i ∈ [Instr.lw rt imm rs, .lwc1 rt imm rs], dataAccess i = some ⟨false, rs, imm, 4⟩) ∧
    (∀ i ∈ [Instr.sw rt imm rs, .swc1 rt imm rs], dataAccess i = some ⟨true, rs, imm, 4⟩) ∧
    (∀ i ∈ [Instr.lb rt imm rs, .lbu rt imm rs], dataAccess i = some ⟨false, rs, imm, 1⟩) ∧
    dataAccess (.sb rt imm rs) = some ⟨true, rs, imm, 1⟩) ∧
  (∀ (i : Instr) (s : State) (a : DataAccess), dataAccess i = some a → MayAccess i s →
    (accessAddress s a).toNat % a.bytes ≠ 0 →
    Stops i s (if a.store = true then .addressErrorStore (accessAddress s a) else .addressErrorLoad (accessAddress s a))) ∧
  ∀ (i : Instr) (s t : State) (a : DataAccess) (epc ea : Word) (d : Bool), dataAccess i = some a →
    (accessAddress s a).toNat % a.bytes = 0 → exec i s ≠ .fault (.stopped (.addressErrorLoad ea) epc d t) ∧
      exec i s ≠ .fault (.stopped (.addressErrorStore ea) epc d t)

/-- 20_memory.md R60, 60_exceptions.md R230: an access with any byte outside `MEM_ALLOC` raises `UnallocatedAccess`, a
fetch included. -/
def Obligations.UnallocatedAccessRaises : Prop :=
  (∀ (i : Instr) (s : State) (a : DataAccess), dataAccess i = some a → MayAccess i s →
    (accessAddress s a).toNat % a.bytes = 0 → ¬AllBytesIn s.params.memAlloc (accessAddress s a) a.bytes →
    Stops i s (.unallocatedAccess (accessAddress s a))) ∧
  ∀ (s : State), s.pc.toNat % 4 = 0 → ¬AllBytesIn s.params.memAlloc s.pc 4 →
    StopsWith (step s) s (.unallocatedAccess s.pc)

/-- 20_memory.md R68: a store that touches `TEXT` and a fetch from an allocated address outside `TEXT` are refused. -/
def Obligations.TextIsReadOnly : Prop :=
  (∀ (i : Instr) (s : State) (a : DataAccess), dataAccess i = some a → a.store = true → MayAccess i s →
    (accessAddress s a).toNat % a.bytes = 0 → AllBytesIn s.params.memAlloc (accessAddress s a) a.bytes →
    ¬NoByteIn s.params.text (accessAddress s a) a.bytes → exec i s = .refused (.storeIntoText (accessAddress s a))) ∧
  ∀ (s : State), s.pc.toNat % 4 = 0 → AllBytesIn s.params.memAlloc s.pc 4 → ¬AllBytesIn s.params.text s.pc 4 →
    step s = .refused (.fetchOutsideText s.pc)

/-- The model's treatment of 10_state.md R40 (log 8): a load of a byte that holds no value faults. -/
def Obligations.LoadWithoutValueFaults : Prop :=
  ∀ (i : Instr) (s : State) (a : DataAccess), dataAccess i = some a → a.store = false → MayAccess i s →
    (accessAddress s a).toNat % a.bytes = 0 → AllBytesIn s.params.memAlloc (accessAddress s a) a.bytes →
    (∃ k, k < a.bytes ∧ Memory.read s.mem (accessAddress s a + BitVec.ofNat 32 k).toNat = none) →
    exec i s = .fault (.noValue (accessAddress s a))

/-- 20_memory.md R53, R54, R70: `MemRead` and `MemWrite` by `ENDIAN`, what a write leaves alone, reading back, and reading
part of a wider value. -/
def Obligations.MemoryByteOrder : Prop :=
  (∀ b0 b1 b2 b3 : Byte,
    joinBytes .little [b0] = b0.toNat ∧ joinBytes .big [b0] = b0.toNat ∧
    joinBytes .little [b0, b1] = (b1 ++ b0).toNat ∧ joinBytes .big [b0, b1] = (b0 ++ b1).toNat ∧
    joinBytes .little [b0, b1, b2, b3] = (b3 ++ b2 ++ b1 ++ b0).toNat ∧
    joinBytes .big [b0, b1, b2, b3] = (b0 ++ b1 ++ b2 ++ b3).toNat) ∧
  (∀ (s t : State) (a v : Word) (n : Nat), n ∈ [1, 2, 4] → t = storeBytes s a n v →
    (∀ k, k < n → Memory.read t.mem (a + BitVec.ofNat 32 k).toNat = some (storedByte s.params.endian n v k)) ∧
    (∀ c, (∀ k, k < n → c ≠ (a + BitVec.ofNat 32 k).toNat) → Memory.read t.mem c = Memory.read s.mem c) ∧
    (readBytes t.mem (accessAddrs a n)).map (joinBytes s.params.endian) = some (v.toNat % 2 ^ (8 * n))) ∧
  ∀ (s t : State) (a : Word), t = storeBytes s a 4 0x11223344#32 →
    (s.params.endian = .little → (readBytes t.mem (accessAddrs a 1)).map (joinBytes .little) = some 0x44 ∧
      (readBytes t.mem (accessAddrs (a + 2#32) 2)).map (joinBytes .little) = some 0x1122) ∧
    (s.params.endian = .big → (readBytes t.mem (accessAddrs a 1)).map (joinBytes .big) = some 0x11 ∧
      (readBytes t.mem (accessAddrs (a + 2#32) 2)).map (joinBytes .big) = some 0x3344)

/-- 20_memory.md R54, R63: a load of the address and width just stored completes and gives back what was stored. -/
def Obligations.LoadAfterStore : Prop :=
  ∀ (s t : State) (rt rs rd : Reg) (imm : Imm),
    (exec (.sw rt imm rs) s = .next t → WritesX (.lw rd imm rs) t rd (readX s rt) (loadedBy (.lw rd imm rs))) ∧
    (exec (.sh rt imm rs) s = .next t →
      WritesX (.lhu rd imm rs) t rd (((readX s rt).extractLsb' 0 16).setWidth 32) (loadedBy (.lhu rd imm rs))) ∧
    (exec (.sb rt imm rs) s = .next t →
      WritesX (.lbu rd imm rs) t rd (((readX s rt).extractLsb' 0 8).setWidth 32) (loadedBy (.lbu rd imm rs))) ∧
    (exec (.swc1 rt imm rs) s = .next t → WritesF (.lwc1 rd imm rs) t rd (readF s rt) (some (.fpr rd)))

/-- 10_state.md R37, 20_memory.md R58, R59: no instruction but the four stores changes memory, and a store changes at most
the bytes of its one access. -/
def Obligations.OnlyStoresChangeMemory : Prop :=
  ∀ (i : Instr) (s t : State), exec i s = .next t →
    ((∀ a, dataAccess i = some a → a.store = false) → MemSame s t) ∧
    ∀ a, dataAccess i = some a → ∀ c, (∀ k, k < a.bytes → c ≠ (accessAddress s a + BitVec.ofNat 32 k).toNat) →
      Memory.read t.mem c = Memory.read s.mem c

/-! ## Coprocessor 1 (47_cp1_float.md) -/

/-- R200 to R203: each arithmetic instruction writes the function of the record `FP_NUMERICS` and nothing else; the corner
values of the default record. -/
def Obligations.FloatArithmetic : Prop :=
  (∀ (s : State) (fd fs ft : Reg), s.params.cp1Usable = true → NoLoadedUse s [.fpr fs, .fpr ft] →
    (CodedC (.addS fd fs ft) 0b10000#5 ft fs fd 0b000000#6 ∧
      WritesF (.addS fd fs ft) s fd (fpAdd s.params.fpNumerics (readF s fs) (readF s ft)) none) ∧
    (CodedC (.subS fd fs ft) 0b10000#5 ft fs fd 0b000001#6 ∧
      WritesF (.subS fd fs ft) s fd (fpSub s.params.fpNumerics (readF s fs) (readF s ft)) none) ∧
    (CodedC (.mulS fd fs ft) 0b10000#5 ft fs fd 0b000010#6 ∧
      WritesF (.mulS fd fs ft) s fd (fpMul s.params.fpNumerics (readF s fs) (readF s ft)) none) ∧
    (CodedC (.divS fd fs ft) 0b10000#5 ft fs fd 0b000011#6 ∧
      WritesF (.divS fd fs ft) s fd (fpDiv s.params.fpNumerics (readF s fs) (readF s ft)) none)) ∧
  fpAdd .ieee 0x7F7FFFFF#32 0x7F7FFFFF#32 = 0x7F800000#32 ∧ fpAdd .ieee 0x4B800000#32 0x3F800000#32 = 0x4B800000#32 ∧
  fpMul .ieee 0x7F7FFFFF#32 0x7F7FFFFF#32 = 0x7F800000#32 ∧ fpMul .ieee 0x00800000#32 0x00800000#32 = 0x00000000#32 ∧
  fpDiv .ieee 0x3F800000#32 0x00000000#32 = 0x7F800000#32 ∧ fpDiv .ieee 0x3F800000#32 0x80000000#32 = 0xFF800000#32 ∧
  fpDiv .ieee 0x3F800000#32 0x40400000#32 = 0x3EAAAAAB#32 ∧ ∀ a : Word, IsFinite a → fpSub .ieee a a = 0x00000000#32

/-- R204, R207, R208: moves copy all 32 bits unchanged. That `mfc1` with `rt = 0` sets no `ld` is the model's choice
(log 34). -/
def Obligations.FloatMoves : Prop :=
  ∀ (s : State) (fd fs rt : Reg), s.params.cp1Usable = true →
    CodedC (.movS fd fs) 0b10000#5 0 fs fd 0b000110#6 ∧ CodedC (.mfc1 rt fs) 0b00000#5 rt fs 0 0b000000#6 ∧
    CodedC (.mtc1 rt fs) 0b00100#5 rt fs 0 0b000000#6 ∧
    (NoLoadedUse s [.fpr fs] → WritesF (.movS fd fs) s fd (readF s fs) none ∧
      WritesX (.mfc1 rt fs) s rt (readF s fs) (loadedBy (.mfc1 rt fs))) ∧
    (NoLoadedUse s [.gpr rt] → WritesF (.mtc1 rt fs) s fs (readX s rt) (some (.fpr fs)))

/-- R205: `cvt.s.w` rounds the integer to the nearest single, exactly up to magnitude 2^24. -/
def Obligations.IntegerToFloat : Prop :=
  (∀ (s : State) (fd fs : Reg), s.params.cp1Usable = true → NoLoadedUse s [.fpr fs] →
    CodedC (.cvtSW fd fs) 0b10100#5 0 fs fd 0b100000#6 ∧
    WritesF (.cvtSW fd fs) s fd (fpCvtSW s.params.fpNumerics (readF s fs)) none) ∧
  (∀ a : Word, IsFinite (fpCvtSW .ieee a) ∧ RoundsTo (fpCvtSW .ieee a) (a.toInt * 2 ^ 149) 1 ∧
    (a.toInt.natAbs ≤ 2 ^ 24 → fpValue (fpCvtSW .ieee a) = a.toInt * 2 ^ 149)) ∧
  fpCvtSW .ieee 0#32 = 0x00000000#32 ∧ fpCvtSW .ieee 16777217#32 = 0x4B800000#32 ∧
  fpCvtSW .ieee 0x7FFFFFFF#32 = 0x4F000000#32 ∧ fpCvtSW .ieee 0x80000000#32 = 0xCF000000#32

/-- R206: `cvt.w.s` rounds by `CVT_W_ROUNDING` and always completes. A NaN, an infinity and an out-of-range value leave any
32-bit value by R206; that it is the free value `Config.cvtDraw` of mode and operand is the model's choice (log 15). -/
def Obligations.FloatToInteger : Prop :=
  (∀ (s : State) (fd fs : Reg), s.params.cp1Usable = true → NoLoadedUse s [.fpr fs] →
    CodedC (.cvtWS fd fs) 0b10000#5 0 fs fd 0b100100#6 ∧
    WritesF (.cvtWS fd fs) s fd (fpCvtWS s.params.fpNumerics s.params.cvtRounding (readF s fs)) none) ∧
  (∀ (mode : CvtRounding) (a : Word), IsFinite a → ∃ n, RoundsToInt mode (fpValue a) n ∧
    (-2147483648 ≤ n ∧ n ≤ 2147483647 → fpCvtWS .ieee mode a = BitVec.ofInt 32 n) ∧
    (¬(-2147483648 ≤ n ∧ n ≤ 2147483647) → fpCvtWS .ieee mode a = Config.cvtDraw mode a)) ∧
  (∀ (mode : CvtRounding) (a : Word), ¬IsFinite a → fpCvtWS .ieee mode a = Config.cvtDraw mode a) ∧
  (∀ (mode : CvtRounding) (v m n : Int), RoundsToInt mode v m → RoundsToInt mode v n → m = n)

/-- R210: with the default numerics each result is the exact real result rounded once to the nearest single, ties to even,
with infinity and gradual underflow where they belong. -/
def Obligations.FloatResultsRoundedOnce : Prop :=
  (∀ a b : Word, IsFinite a → IsFinite b →
    RoundsTo (fpAdd .ieee a b) (fpValue a + fpValue b) 1 ∧ RoundsTo (fpSub .ieee a b) (fpValue a - fpValue b) 1 ∧
    RoundsTo (fpMul .ieee a b) (fpValue a * fpValue b) (2 ^ 149)) ∧
  (∀ a b : Word, IsFinite a → IsFinite b → fpValue b ≠ 0 →
    RoundsTo (fpDiv .ieee a b) (fpValue a * (fpValue b).sign * 2 ^ 149) (fpValue b).natAbs) ∧
  ∀ a : Word, RoundsTo (fpCvtSW .ieee a) (a.toInt * 2 ^ 149) 1

/-- R211: signs, zeros, infinities and NaNs of the default numerics. -/
def Obligations.FloatSpecialOperands : Prop :=
  (∀ a b : Word,
    (isNaN (fpMul .ieee a b) = false → fpSign (fpMul .ieee a b) = (fpSign a != fpSign b)) ∧
    (isNaN (fpDiv .ieee a b) = false → fpSign (fpDiv .ieee a b) = (fpSign a != fpSign b)) ∧
    (IsFinite a → fpAdd .ieee a (a ^^^ 0x80000000#32) = 0#32 ∧ fpSub .ieee a a = 0#32) ∧
    (isInf a = true → IsFinite b → fpAdd .ieee a b = a ∧ fpAdd .ieee b a = a) ∧
    (isInf a = true → isNaN b = false → isZero b = false →
      fpMul .ieee a b = fpInf (fpSign a != fpSign b) ∧ fpMul .ieee b a = fpInf (fpSign b != fpSign a)) ∧
    (IsFinite a → isInf b = true → fpDiv .ieee a b = fpZero (fpSign a != fpSign b)) ∧
    (IsFinite a → isZero a = false → isZero b = true → fpDiv .ieee a b = fpInf (fpSign a != fpSign b)) ∧
    (isInf a = true → isInf b = true → fpSign a = fpSign b → isNaN (fpSub .ieee a b) = true) ∧
    (isInf a = true → isInf b = true → fpSign a ≠ fpSign b → isNaN (fpAdd .ieee a b) = true) ∧
    (isZero a = true → isInf b = true → isNaN (fpMul .ieee a b) = true ∧ isNaN (fpMul .ieee b a) = true) ∧
    (isZero a = true → isZero b = true → isNaN (fpDiv .ieee a b) = true) ∧
    (isInf a = true → isInf b = true → isNaN (fpDiv .ieee a b) = true) ∧
    (isNaN a = true ∨ isNaN b = true → isNaN (fpAdd .ieee a b) = true ∧ isNaN (fpSub .ieee a b) = true ∧
      isNaN (fpMul .ieee a b) = true ∧ isNaN (fpDiv .ieee a b) = true)) ∧
  fpAdd .ieee 0#32 0#32 = 0#32 ∧ fpAdd .ieee 0x80000000#32 0x80000000#32 = 0x80000000#32 ∧
  fpAdd .ieee 0#32 0x80000000#32 = 0#32 ∧ fpInf false = 0x7F800000#32 ∧ fpInf true = 0xFF800000#32 ∧
  fpZero false = 0x00000000#32 ∧ fpZero true = 0x80000000#32

/-- The model's conservative setting of `FP_NUMERICS` (R212, log 16): zero, normal and infinite operands with
such a result, and conversions with a stated result, are the default ones. -/
def Obligations.ConservativeNumerics : Prop :=
  ∀ a b : Word, isNaN a = false → isSubnormal a = false → isNaN b = false → isSubnormal b = false →
    (isNaN (fpAdd .ieee a b) = false → isSubnormal (fpAdd .ieee a b) = false →
      fpAdd .conservative a b = fpAdd .ieee a b) ∧
    (isNaN (fpSub .ieee a b) = false → isSubnormal (fpSub .ieee a b) = false →
      fpSub .conservative a b = fpSub .ieee a b) ∧
    (isNaN (fpMul .ieee a b) = false → isSubnormal (fpMul .ieee a b) = false →
      fpMul .conservative a b = fpMul .ieee a b) ∧
    (isNaN (fpDiv .ieee a b) = false → isSubnormal (fpDiv .ieee a b) = false →
      fpDiv .conservative a b = fpDiv .ieee a b) ∧
    (isInf a = false → ∀ (mode : CvtRounding) (n : Int), RoundsToInt mode (fpValue a) n →
      -2147483648 ≤ n ∧ n ≤ 2147483647 → fpCvtWS .conservative mode a = BitVec.ofInt 32 n)

/-! ## Exceptions, hazards, launch (60_exceptions.md, 70_reset_and_hazards.md) -/

/-- 42_rtype_jump_system.md R152, R153, 60_exceptions.md R228, R229: every `syscall` and every `break` ends the run with its
own outcome at its own address, nothing read or written. -/
def Obligations.SyscallAndBreakStop : Prop :=
  encode .syscall = 0x0000000C#32 ∧ encode .breakpoint = 0x0000000D#32 ∧
  ∀ s : State, Stops .syscall s .syscall ∧ Stops .breakpoint s .breakpoint

/-- 60_exceptions.md R224: whatever a step stops with, the recorded state is the unchanged state, and `epc` and
`in_delay_slot` are as `raise` fixes them. -/
def Obligations.StopsArePrecise : Prop :=
  ∀ (s t : State) (c : Cause) (epc : Word) (d : Bool), step s = .fault (.stopped c epc d t) →
    t = s ∧ StopsWith (step s) s c

/-- 60_exceptions.md R221, for overflow with R225: every cause is raised by the instructions of its row, when its row says,
with its row's `info`. -/
def Obligations.CausesAreJustified : Prop :=
  ∀ (s t : State) (c : Cause) (epc : Word) (d : Bool), step s = .fault (.stopped c epc d t) → Justified s c

/-- 70_reset_and_hazards.md R256: what sets `ld`, what is refused, and that a program accepted with `LOAD_DELAY = true`
does the same without. R256 does not say where the refusal stands among the other checks, nor that `mfc1` with `rt = 0`
sets no `ld`: both are the model's choice (logs 17 and 34). -/
def Obligations.LoadDelay : Prop :=
  (∀ (i : Instr) (s t : State), exec i s = .next t →
    t.ld = if s.params.loadDelay = true then loadedBy i else none) ∧
  (∀ (i : Instr) (s : State) (r : RegName), s.params.loadDelay = true → s.ld = some r → r ∈ sources i →
    (isControlTransfer i = true → NotInSlot s) → (usesCp1 i = true → s.params.cp1Usable = true) →
    exec i s = .refused (.useOfLoadedRegister r)) ∧
  (∀ (i : Instr) (s : State) (r : RegName), exec i s = .refused (.useOfLoadedRegister r) →
    s.params.loadDelay = true ∧ s.ld = some r ∧ r ∈ sources i) ∧
  (∀ (s t : State), s.params.loadDelay = true → step s = .next t →
    step (withoutLoadDelay s) = .next (withoutLoadDelay t)) ∧
  ∀ (s t : State) (c : Cause) (epc : Word) (d : Bool), s.params.loadDelay = true →
    step s = .fault (.stopped c epc d t) →
    step (withoutLoadDelay s) = .fault (.stopped c epc d (withoutLoadDelay t))

/-- 10_state.md R21: register 0 reads as 0, a write to it is discarded, and an instruction with that
destination stops exactly as with any other. -/
def Obligations.RegisterZero : Prop :=
  (∀ s : State, readX s 0 = 0#32) ∧ (∀ (s : State) (v : Word), writeX s 0 v = s) ∧
  ∀ (s : State) (rd rs rt : Reg) (imm : Imm) (f : Fault),
    (exec (.add 0 rs rt) s = .fault f ↔ exec (.add rd rs rt) s = .fault f) ∧
    (exec (.sub 0 rs rt) s = .fault f ↔ exec (.sub rd rs rt) s = .fault f) ∧
    (exec (.addi 0 rs imm) s = .fault f ↔ exec (.addi rd rs imm) s = .fault f) ∧
    (exec (.lb 0 imm rs) s = .fault f ↔ exec (.lb rd imm rs) s = .fault f) ∧
    (exec (.lh 0 imm rs) s = .fault f ↔ exec (.lh rd imm rs) s = .fault f) ∧
    (exec (.lw 0 imm rs) s = .fault f ↔ exec (.lw rd imm rs) s = .fault f) ∧
    (exec (.lbu 0 imm rs) s = .fault f ↔ exec (.lbu rd imm rs) s = .fault f) ∧
    (exec (.lhu 0 imm rs) s = .fault f ↔ exec (.lhu rd imm rs) s = .fault f) ∧
    (exec (.mfc1 0 rs) s = .fault f ↔ exec (.mfc1 rd rs) s = .fault f)

/-- The invariant `Inv` (20_memory.md R50, 10_state.md R21, 70_reset_and_hazards.md R256) is kept by every step. That `ld`
is not `x[0]` after `mfc1` with `rt = 0` either is the model's choice (log 34). -/
def Obligations.StepKeepsInvariant : Prop := ∀ s t : State, Inv s → step s = .next t → Inv t

/-- The invariant holds at launch, for every setting of the parameters, and at reset; the reset parameters are fit for a
launch. The parameter values are the model's (logs 2 to 6). -/
def Obligations.InvariantAtLaunch : Prop :=
  (∀ p : Params, Inv (State.launch p)) ∧ Inv State.reset ∧ launchable State.reset.params

/-- 20_memory.md R52, R68 and 70_reset_and_hazards.md R252 item 7: no step changes a parameter, a byte of `TEXT` or a byte
outside `MEM_ALLOC`. -/
def Obligations.ProgramNeverChanges : Prop :=
  ∀ s t : State, step s = .next t → t.params = s.params ∧
    ∀ a, inSet s.params.text a = true ∨ inSet s.params.memAlloc a = false →
      Memory.read t.mem a = Memory.read s.mem a

/-- The launch state: `pc`, `npc`, `ds` and `x[0]` as 70_reset_and_hazards.md R250 and 10_state.md R39 give them. The model's
choices: no byte holds a value yet, `TEXT` included, because the program image of R250 is placed from outside (log 25);
`npc` and `ds` stand there without `BRANCH_DELAY` too (log 9); and the parameters of `State.reset` (logs 2 to 6). -/
def Obligations.LaunchState : Prop :=
  ∀ p : Params, (State.launch p).pc = p.entry ∧ (State.launch p).npc = p.entry + 4#32 ∧ (State.launch p).ds = false ∧
    readX (State.launch p) 0 = 0#32 ∧ (∀ a, Memory.read (State.launch p).mem a = none) ∧
    (State.launch p).params = p ∧ State.reset = State.launch Params.default
end

