-- ==== Sys2Proof/Tests/Slice0.lean ====
section
/-! SUPPORT. Tests. Expected values come from 95_test_vectors.md, 96_test_vectors_families.md and the examples of the
rules; each test is one step. The witnesses at the end show, for each obligation with hypotheses, a concrete state and
operands that meet them. -/

namespace Sys2Proof.Machine.Tests

open Sys2Proof Sys2Proof.Machine

/-! ## Helpers -/

/-- The start of the vectors: the program part is `TEXT`, the data part is allocated beside it. -/
def params : Params :=
  { Params.default with memAlloc := [⟨0x00400000, 0x1000⟩, ⟨0x10010000, 0x1000⟩], text := [⟨0x00400000, 0x1000⟩] }

/-- The same, little-endian. -/
def little : Params := { params with endian := .little }

/-- The same, with a delay slot. -/
def slotted : Params := { params with branchDelay := true }

/-- The same, with the load delay. -/
def loading : Params := { params with loadDelay := true }

/-- The same, without coprocessor 1. -/
def noCp1 : Params := { params with cp1Usable := false }

/-- The launch state with general and floating-point registers given. -/
def start (p : Params) (xs fs : List (Reg × Word)) : State :=
  fs.foldl (fun s r => writeF s r.1 r.2) (xs.foldl (fun s r => writeX s r.1 r.2) (State.launch p))

/-- The state with bytes of memory given. -/
def withBytes (s : State) (a : Word) (bs : List Byte) : State :=
  { s with mem := writeBytes s.mem (accessAddrs a bs.length) bs }

/-- The bytes of the load vectors, with `x[1]` at the data part. -/
def loadData (p : Params) : State := withBytes (start p [(1, 0x10010000)] []) 0x10010008 [0x78, 0x56, 0x34, 0x92]

/-- One step on a word placed at `pc`. -/
def run (s : State) (w : Nat) : Result := step (s.withFetchWord 32 w)

/-- The outcome is a next state with the property. -/
def nextIs (o : Result) (p : State → Bool) : Bool :=
  match o with
  | .next t => p t
  | .fault _ => false
  | .refused _ => false

/-- The outcome is `Stopped` with the cause, `epc` and `in_delay_slot`. -/
def stopsIs (o : Result) (c : Cause) (epc : Word) (d : Bool) : Bool :=
  match o with
  | .next _ => false
  | .fault (.stopped c' e' d' _) => c' == c && e' == epc && d' == d
  | .fault (.noValue _) => false
  | .refused _ => false

/-- The outcome is the refusal. -/
def refusedIs (o : Result) (r : Refusal) : Bool :=
  match o with
  | .next _ => false
  | .fault _ => false
  | .refused r' => r' == r

/-- General register `rd` holds `v` and `pc` went on by 4. -/
def xIs (rd : Reg) (v : Word) (t : State) : Bool := readX t rd == v && t.pc == 0x00400004#32

/-- Floating-point register `fd` holds `v` and `pc` went on by 4. -/
def fIs (fd : Reg) (v : Word) (t : State) : Bool := readF t fd == v && t.pc == 0x00400004#32

/-- `HI` and `LO` hold the values. -/
def hiloIs (hi lo : Word) (t : State) : Bool := t.hi == hi && t.lo == lo

/-- The bytes from `a` on. -/
def bytesAre (a : Word) (bs : List Byte) (t : State) : Bool := readBytes t.mem (accessAddrs a bs.length) == some bs

/-! ## Well-formed and ill-formed assembler operands (30_encoding.md R96, R97, R99, R103) -/

theorem test_wf_reg_refused : Operand.wellFormed (.reg 32) = false := by decide
theorem test_wf_reg_accepted : Operand.wellFormed (.reg 31) = true := by decide
theorem test_wf_shamt_refused : Operand.wellFormed (.shamt 32) = false := by decide
theorem test_wf_shamt_accepted : Operand.wellFormed (.shamt 31) = true := by decide
theorem test_wf_immediate_high_refused : Operand.wellFormed (.immediate 65536) = false := by decide
theorem test_wf_immediate_low_refused : Operand.wellFormed (.immediate (-32769)) = false := by decide
theorem test_wf_immediate_accepted : Operand.wellFormed (.immediate (-32768)) = true := by decide
theorem test_wf_branch_far_refused : Operand.wellFormed (.branchLabel 0x00400000 0x00420004) = false := by decide
theorem test_wf_branch_odd_refused : Operand.wellFormed (.branchLabel 0x00400000 0x00400006) = false := by decide
theorem test_wf_branch_accepted : Operand.wellFormed (.branchLabel 0x00400000 0x00420000) = true := by decide
theorem test_wf_jump_region_refused : Operand.wellFormed (.jumpLabel 0x00400000 0x10000000) = false := by decide
theorem test_wf_jump_odd_refused : Operand.wellFormed (.jumpLabel 0x00400000 0x00400002) = false := by decide
theorem test_wf_jump_accepted : Operand.wellFormed (.jumpLabel 0x0FFFFFFC 0x10000000) = true := by decide

/-! ## Decode: one word per instruction (95_test_vectors.md section 2.1) -/

theorem test_decode_add : decode true 0b00000000001000100001100000100000#32 = .instr (.add 3 1 2) := by decide
theorem test_decode_addu : decode true 0b00000000001000100001100000100001#32 = .instr (.addu 3 1 2) := by decide
theorem test_decode_sub : decode true 0b00000000001000100001100000100010#32 = .instr (.sub 3 1 2) := by decide
theorem test_decode_subu : decode true 0b00000000001000100001100000100011#32 = .instr (.subu 3 1 2) := by decide
theorem test_decode_and : decode true 0b00000000001000100001100000100100#32 = .instr (.and 3 1 2) := by decide
theorem test_decode_or : decode true 0b00000000001000100001100000100101#32 = .instr (.or 3 1 2) := by decide
theorem test_decode_xor : decode true 0b00000000001000100001100000100110#32 = .instr (.xor 3 1 2) := by decide
theorem test_decode_nor : decode true 0b00000000001000100001100000100111#32 = .instr (.nor 3 1 2) := by decide
theorem test_decode_slt : decode true 0b00000000001000100001100000101010#32 = .instr (.slt 3 1 2) := by decide
theorem test_decode_sltu : decode true 0b00000000001000100001100000101011#32 = .instr (.sltu 3 1 2) := by decide
theorem test_decode_sll : decode true 0b00000000000000100001100101000000#32 = .instr (.sll 3 2 5) := by decide
theorem test_decode_srl : decode true 0b00000000000000100001100101000010#32 = .instr (.srl 3 2 5) := by decide
theorem test_decode_sra : decode true 0b00000000000000100001100101000011#32 = .instr (.sra 3 2 5) := by decide
theorem test_decode_sllv : decode true 0b00000000001000100001100000000100#32 = .instr (.sllv 3 2 1) := by decide
theorem test_decode_srlv : decode true 0b00000000001000100001100000000110#32 = .instr (.srlv 3 2 1) := by decide
theorem test_decode_srav : decode true 0b00000000001000100001100000000111#32 = .instr (.srav 3 2 1) := by decide
theorem test_decode_mult : decode true 0b00000000001000100000000000011000#32 = .instr (.mult 1 2) := by decide
theorem test_decode_multu : decode true 0b00000000001000100000000000011001#32 = .instr (.multu 1 2) := by decide
theorem test_decode_div : decode true 0b00000000001000100000000000011010#32 = .instr (.div 1 2) := by decide
theorem test_decode_divu : decode true 0b00000000001000100000000000011011#32 = .instr (.divu 1 2) := by decide
theorem test_decode_mfhi : decode true 0b00000000000000000001100000010000#32 = .instr (.mfhi 3) := by decide
theorem test_decode_mthi : decode true 0b00000000001000000000000000010001#32 = .instr (.mthi 1) := by decide
theorem test_decode_mflo : decode true 0b00000000000000000001100000010010#32 = .instr (.mflo 3) := by decide
theorem test_decode_mtlo : decode true 0b00000000001000000000000000010011#32 = .instr (.mtlo 1) := by decide
theorem test_decode_jr : decode true 0b00000000001000000000000000001000#32 = .instr (.jr 1) := by decide
theorem test_decode_jalr : decode true 0b00000000001000000001100000001001#32 = .instr (.jalr 3 1) := by decide
theorem test_decode_syscall : decode true 0b00000000000000000000000000001100#32 = .instr .syscall := by decide
theorem test_decode_break : decode true 0b00000000000000000000000000001101#32 = .instr .breakpoint := by decide
theorem test_decode_addi : decode true 0b00100000001000101000000000000001#32 = .instr (.addi 2 1 0x8001) := by decide
theorem test_decode_addiu :
    decode true 0b00100100001000101000000000000001#32 = .instr (.addiu 2 1 0x8001) := by decide
theorem test_decode_slti : decode true 0b00101000001000101000000000000001#32 = .instr (.slti 2 1 0x8001) := by decide
theorem test_decode_sltiu :
    decode true 0b00101100001000101000000000000001#32 = .instr (.sltiu 2 1 0x8001) := by decide
theorem test_decode_andi : decode true 0b00110000001000101000000000000001#32 = .instr (.andi 2 1 0x8001) := by decide
theorem test_decode_ori : decode true 0b00110100001000101000000000000001#32 = .instr (.ori 2 1 0x8001) := by decide
theorem test_decode_xori : decode true 0b00111000001000101000000000000001#32 = .instr (.xori 2 1 0x8001) := by decide
theorem test_decode_lui : decode true 0b00111100000000101000000000000001#32 = .instr (.lui 2 0x8001) := by decide
theorem test_decode_bltz : decode true 0b00000100001000001000000000000001#32 = .instr (.bltz 1 0x8001) := by decide
theorem test_decode_bgez : decode true 0b00000100001000011000000000000001#32 = .instr (.bgez 1 0x8001) := by decide
theorem test_decode_beq : decode true 0b00010000001000101000000000000001#32 = .instr (.beq 1 2 0x8001) := by decide
theorem test_decode_bne : decode true 0b00010100001000101000000000000001#32 = .instr (.bne 1 2 0x8001) := by decide
theorem test_decode_blez : decode true 0b00011000001000001000000000000001#32 = .instr (.blez 1 0x8001) := by decide
theorem test_decode_bgtz : decode true 0b00011100001000001000000000000001#32 = .instr (.bgtz 1 0x8001) := by decide
theorem test_decode_lb : decode true 0b10000000001000101000000000000001#32 = .instr (.lb 2 0x8001 1) := by decide
theorem test_decode_lh : decode true 0b10000100001000101000000000000001#32 = .instr (.lh 2 0x8001 1) := by decide
theorem test_decode_lw : decode true 0b10001100001000101000000000000001#32 = .instr (.lw 2 0x8001 1) := by decide
theorem test_decode_lbu : decode true 0b10010000001000101000000000000001#32 = .instr (.lbu 2 0x8001 1) := by decide
theorem test_decode_lhu : decode true 0b10010100001000101000000000000001#32 = .instr (.lhu 2 0x8001 1) := by decide
theorem test_decode_sb : decode true 0b10100000001000101000000000000001#32 = .instr (.sb 2 0x8001 1) := by decide
theorem test_decode_sh : decode true 0b10100100001000101000000000000001#32 = .instr (.sh 2 0x8001 1) := by decide
theorem test_decode_sw : decode true 0b10101100001000101000000000000001#32 = .instr (.sw 2 0x8001 1) := by decide
theorem test_decode_lwc1 : decode true 0b11000100001000101000000000000001#32 = .instr (.lwc1 2 0x8001 1) := by decide
theorem test_decode_swc1 : decode true 0b11100100001000101000000000000001#32 = .instr (.swc1 2 0x8001 1) := by decide
theorem test_decode_j : decode true 0b00001000000100000000000000000110#32 = .instr (.j 0x0100006) := by decide
theorem test_decode_jal : decode true 0b00001100000100000000000000000110#32 = .instr (.jal 0x0100006) := by decide
theorem test_decode_addS : decode true 0b01000110000000100000100011000000#32 = .instr (.addS 3 1 2) := by decide
theorem test_decode_subS : decode true 0b01000110000000100000100011000001#32 = .instr (.subS 3 1 2) := by decide
theorem test_decode_mulS : decode true 0b01000110000000100000100011000010#32 = .instr (.mulS 3 1 2) := by decide
theorem test_decode_divS : decode true 0b01000110000000100000100011000011#32 = .instr (.divS 3 1 2) := by decide
theorem test_decode_movS : decode true 0b01000110000000000000100011000110#32 = .instr (.movS 3 1) := by decide
theorem test_decode_cvtSW : decode true 0b01000110100000000000100011100000#32 = .instr (.cvtSW 3 1) := by decide
theorem test_decode_cvtWS : decode true 0b01000110000000000000100011100100#32 = .instr (.cvtWS 3 1) := by decide
theorem test_decode_mfc1 : decode true 0b01000100000000100000100000000000#32 = .instr (.mfc1 2 1) := by decide
theorem test_decode_mtc1 : decode true 0b01000100100000100000100000000000#32 = .instr (.mtc1 2 1) := by decide

/-! ## Decode: reserved words and unused fields (95_test_vectors.md section 2.2) -/

theorem test_decode_reserved : [0x00000001#32, 0x0000000F, 0x0022180A, 0x0000003F, 0x04220000, 0x04300000, 0x18210000,
    0x1C3F0000, 0x40026000, 0x48000000, 0x4C000000].all (fun v => decode false v == .reserved) = true := by decide
theorem test_decode_reserved_cp1 : [0x462208C0#32, 0x460008C5, 0x460008E0, 0x468008E4, 0x468208C0, 0x44420800,
    0x44020801].all (fun v => decode false v == .reserved) = true := by decide
theorem test_decode_reserved_opcode : [0x70000000#32, 0x88220000, 0xA8220000, 0xC0220000, 0xC8220000, 0xD4220000,
    0xFFFFFFFF].all (fun v => decode false v == .reserved) = true := by decide
theorem test_decode_unused_strict : [0x00221860#32, 0x00221FC4, 0x00221800, 0x03E0F808, 0x0022181A, 0x0000004C,
    0x0001000D, 0x3C220001, 0x44020840, 0x46010886].all (fun v => decode true v == .unusedField) = true := by decide
theorem test_decode_unused_lenient : decode false 0x00221860#32 = .instr (.add 3 1 2) ∧
    decode false 0x03E0F808#32 = .instr (.jr 31) ∧ decode false 0x44020840#32 = .instr (.mfc1 2 1) := by decide
theorem test_decode_nop : decode true 0x00000000#32 = .instr (.sll 0 0 0) := by decide
theorem test_decodeTableWord : decodeTableWord 32 0x00221820 = some (.add 3 1 2) := by decide

/-! ## One step per instruction (96_test_vectors_families.md and the examples of the rules) -/

theorem test_add : nextIs (run (start params [(1, 5), (2, 7)] []) 0x00221820) (xIs 3 12) = true := by decide
theorem test_addu : nextIs (run (start params [(1, 0xFFFFFFFF), (2, 2)] []) 0x00221821) (xIs 3 1) = true := by decide
theorem test_sub : nextIs (run (start params [(1, 5), (2, 7)] []) 0x00221822) (xIs 3 0xFFFFFFFE) = true := by decide
theorem test_subu : nextIs (run (start params [(1, 0), (2, 1)] []) 0x00221823) (xIs 3 0xFFFFFFFF) = true := by decide
theorem test_subu_no_trap :
    nextIs (run (start params [(1, 0x80000000), (2, 1)] []) 0x00221823) (xIs 3 0x7FFFFFFF) = true := by decide
theorem test_and :
    nextIs (run (start params [(1, 0xFF00FF00), (2, 0x0FF00FF0)] []) 0x00221824)
      (xIs 3 0x0F000F00) = true := by decide
theorem test_or :
    nextIs (run (start params [(1, 0xFF00FF00), (2, 0x0FF00FF0)] []) 0x00221825)
      (xIs 3 0xFFF0FFF0) = true := by decide
theorem test_xor :
    nextIs (run (start params [(1, 0xFF00FF00), (2, 0x0FF00FF0)] []) 0x00221826)
      (xIs 3 0xF0F0F0F0) = true := by decide
theorem test_nor :
    nextIs (run (start params [(1, 0xFF00FF00), (2, 0x0FF00FF0)] []) 0x00221827)
      (xIs 3 0x000F000F) = true := by decide
theorem test_slt : nextIs (run (start params [(1, 0xFFFFFFFF), (2, 1)] []) 0x0022182A) (xIs 3 1) = true := by decide
theorem test_slt_extremes :
    nextIs (run (start params [(1, 0x7FFFFFFF), (2, 0x80000000)] []) 0x0022182A) (xIs 3 0) = true := by decide
theorem test_sltu : nextIs (run (start params [(1, 0xFFFFFFFF), (2, 1)] []) 0x0022182B) (xIs 3 0) = true := by decide
theorem test_sltu_less :
    nextIs (run (start params [(1, 1), (2, 0xFFFFFFFF)] []) 0x0022182B) (xIs 3 1) = true := by decide
theorem test_sllv : nextIs (run (start params [(1, 36), (2, 1)] []) 0x00221804) (xIs 3 0x00000010) = true := by decide
theorem test_srlv : nextIs (run (start params [(1, 31), (2, 0x80000000)] []) 0x00221806) (xIs 3 1) = true := by decide
theorem test_srav :
    nextIs (run (start params [(1, 31), (2, 0x80000000)] []) 0x00221807) (xIs 3 0xFFFFFFFF) = true := by decide
theorem test_add_overflow :
    stopsIs (run (start params [(1, 0x7FFFFFFF),
      (2, 1)] []) 0x00221820) .integerOverflow 0x00400000 false = true := by decide
theorem test_sub_overflow :
    stopsIs (run (start params [(1, 0),
      (2, 0x80000000)] []) 0x00221822) .integerOverflow 0x00400000 false = true := by decide
theorem test_sll : nextIs (run (start params [(2, 0x12345678)] []) 0x00021900) (xIs 3 0x23456780) = true := by decide
theorem test_srl : nextIs (run (start params [(2, 0x87654321)] []) 0x00021902) (xIs 3 0x08765432) = true := by decide
theorem test_sra : nextIs (run (start params [(2, 0x87654321)] []) 0x00021903) (xIs 3 0xF8765432) = true := by decide
theorem test_sra_31 :
    nextIs (run (start params [(2, 0x80000000)] []) 0x00021FC3) (xIs 3 0xFFFFFFFF) = true := by decide
theorem test_addu_to_x0 : nextIs (run (start params [(1, 1), (2, 2)] []) 0x00220021) (xIs 0 0) = true := by decide
theorem test_mult :
    nextIs (run (start params [(1, 0xFFFFFFFE), (2, 3)] []) 0x00220018)
      (hiloIs 0xFFFFFFFF 0xFFFFFFFA) = true := by decide
theorem test_mult_minimum :
    nextIs (run (start params [(1, 0x80000000), (2, 0x80000000)] []) 0x00220018)
      (hiloIs 0x40000000 0) = true := by decide
theorem test_multu :
    nextIs (run (start params [(1, 0xFFFFFFFE), (2, 3)] []) 0x00220019) (hiloIs 2 0xFFFFFFFA) = true := by decide
theorem test_multu_maximum :
    nextIs (run (start params [(1, 0xFFFFFFFF), (2, 0xFFFFFFFF)] []) 0x00220019)
      (hiloIs 0xFFFFFFFE 1) = true := by decide
theorem test_div :
    nextIs (run (start params [(1, 0xFFFFFFF9), (2, 2)] []) 0x0022001A)
      (hiloIs 0xFFFFFFFF 0xFFFFFFFD) = true := by decide
theorem test_div_negative_divisor :
    nextIs (run (start params [(1, 7), (2, 0xFFFFFFFE)] []) 0x0022001A) (hiloIs 1 0xFFFFFFFD) = true := by decide
theorem test_divu :
    nextIs (run (start params [(1, 0xFFFFFFF9), (2, 2)] []) 0x0022001B) (hiloIs 1 0x7FFFFFFC) = true := by decide
theorem test_divu_small : nextIs (run (start params [(1, 3), (2, 5)] []) 0x0022001B) (hiloIs 3 0) = true := by decide
theorem test_mfhi :
    nextIs (run (writeHiLo (start params [] []) 0xDEADBEEF 5) 0x00001810) (xIs 3 0xDEADBEEF) = true := by decide
theorem test_mflo :
    nextIs (run (writeHiLo (start params [] []) 0xDEADBEEF 5) 0x00001812) (xIs 3 5) = true := by decide
theorem test_mthi :
    nextIs (run (writeHiLo (start params [(1, 5)] []) 7 8) 0x00200011) (hiloIs 5 8) = true := by decide
theorem test_mtlo :
    nextIs (run (writeHiLo (start params [(1, 5)] []) 7 8) 0x00200013) (hiloIs 7 5) = true := by decide
theorem test_addi : nextIs (run (start params [(1, 10)] []) 0x2022FFFF) (xIs 2 9) = true := by decide
theorem test_addiu : nextIs (run (start params [(1, 0)] []) 0x2422FFFF) (xIs 2 0xFFFFFFFF) = true := by decide
theorem test_slti : nextIs (run (start params [(1, 0xFFFFFFFE)] []) 0x2822FFFF) (xIs 2 1) = true := by decide
theorem test_slti_zero : nextIs (run (start params [(1, 0)] []) 0x2822FFFF) (xIs 2 0) = true := by decide
theorem test_sltiu : nextIs (run (start params [(1, 5)] []) 0x2C22FFFF) (xIs 2 1) = true := by decide
theorem test_sltiu_maximum : nextIs (run (start params [(1, 0xFFFFFFFF)] []) 0x2C22FFFF) (xIs 2 0) = true := by decide
theorem test_andi : nextIs (run (start params [(1, 0x12345678)] []) 0x3022FF00) (xIs 2 0x00005600) = true := by decide
theorem test_ori : nextIs (run (start params [(1, 0x12345678)] []) 0x3422FF00) (xIs 2 0x1234FF78) = true := by decide
theorem test_xori : nextIs (run (start params [(1, 0x12345678)] []) 0x3822FF00) (xIs 2 0x1234A978) = true := by decide
theorem test_lui : nextIs (run (start params [(1, 0)] []) 0x3C021234) (xIs 2 0x12340000) = true := by decide
theorem test_addi_overflow :
    stopsIs (run (start params [(1, 0x7FFFFFFF)] []) 0x20220001) .integerOverflow 0x00400000 false = true := by decide
theorem test_bltz_taken :
    nextIs (run (start params [(1, 0xFFFFFFFF), (2, 0)] []) 0x04200003)
      (fun t => t.pc == 0x00400010) = true := by decide
theorem test_bltz_zero :
    nextIs (run (start params [(1, 0), (2, 0)] []) 0x04200003) (fun t => t.pc == 0x00400004) = true := by decide
theorem test_bgez_zero :
    nextIs (run (start params [(1, 0), (2, 0)] []) 0x04210003) (fun t => t.pc == 0x00400010) = true := by decide
theorem test_bgez_negative :
    nextIs (run (start params [(1, 0x80000000), (2, 0)] []) 0x04210003)
      (fun t => t.pc == 0x00400004) = true := by decide
theorem test_beq_taken :
    nextIs (run (start params [(1, 7), (2, 7)] []) 0x10220003) (fun t => t.pc == 0x00400010) = true := by decide
theorem test_beq_not_taken :
    nextIs (run (start params [(1, 7), (2, 8)] []) 0x10220003) (fun t => t.pc == 0x00400004) = true := by decide
theorem test_bne_taken :
    nextIs (run (start params [(1, 1), (2, 0)] []) 0x1422FFFE) (fun t => t.pc == 0x003FFFFC) = true := by decide
theorem test_blez_zero :
    nextIs (run (start params [(1, 0), (2, 0)] []) 0x18200003) (fun t => t.pc == 0x00400010) = true := by decide
theorem test_blez_one :
    nextIs (run (start params [(1, 1), (2, 0)] []) 0x18200003) (fun t => t.pc == 0x00400004) = true := by decide
theorem test_bgtz_one :
    nextIs (run (start params [(1, 1), (2, 0)] []) 0x1C200003) (fun t => t.pc == 0x00400010) = true := by decide
theorem test_bgtz_zero :
    nextIs (run (start params [(1, 0), (2, 0)] []) 0x1C200003) (fun t => t.pc == 0x00400004) = true := by decide
theorem test_jr :
    nextIs (run (start params [(31, 0x00400018)] []) 0x03E00008) (fun t => t.pc == 0x00400018) = true := by decide
theorem test_jalr :
    nextIs (run (start params [(2, 0x00400100)] []) 0x0040F809)
      (fun t => t.pc == 0x00400100 && readX t 31 == 0x00400004) = true := by decide
theorem test_jalr_same_register :
    nextIs (run (start params [(2, 0x00400100)] []) 0x00401009)
      (fun t => t.pc == 0x00400100 && readX t 2 == 0x00400004) = true := by decide
theorem test_j : nextIs (run (start params [] []) 0x08100008) (fun t => t.pc == 0x00400020) = true := by decide
theorem test_jal :
    nextIs (run (start params [] []) 0x0C100008)
      (fun t => t.pc == 0x00400020 && readX t 31 == 0x00400004) = true := by decide
theorem test_jal_slot :
    nextIs (run (start slotted [] []) 0x0C100008)
      (fun t => t.pc == 0x00400004 && t.npc == 0x00400020 && t.ds && readX t 31 == 0x00400008) = true := by decide
theorem test_bne_slot_not_taken :
    nextIs (run (start slotted [] []) 0x14000003)
      (fun t => t.pc == 0x00400004 && t.npc == 0x00400008 && t.ds) = true := by decide
theorem test_j_last_word :
    nextIs (run ((fun s : State => { s with pc := 0x0FFFFFFC }) (start params [] [])) 0x08000000)
      (fun t => t.pc == 0x10000000) = true := by decide
theorem test_syscall : stopsIs (run (start params [] []) 0x0000000C) .syscall 0x00400000 false = true := by decide
theorem test_break : stopsIs (run (start params [] []) 0x0000000D) .breakpoint 0x00400000 false = true := by decide
theorem test_lb : nextIs (run (loadData params) 0x8022000B) (xIs 2 0xFFFFFF92) = true := by decide
theorem test_lbu : nextIs (run (loadData params) 0x9022000B) (xIs 2 0x00000092) = true := by decide
theorem test_lh_little : nextIs (run (loadData little) 0x8422000A) (xIs 2 0xFFFF9234) = true := by decide
theorem test_lh_big : nextIs (run (loadData params) 0x8422000A) (xIs 2 0x00003492) = true := by decide
theorem test_lhu_little : nextIs (run (loadData little) 0x9422000A) (xIs 2 0x00009234) = true := by decide
theorem test_lw_little : nextIs (run (loadData little) 0x8C220008) (xIs 2 0x92345678) = true := by decide
theorem test_lw_big : nextIs (run (loadData params) 0x8C220008) (xIs 2 0x78563492) = true := by decide
theorem test_lwc1_big : nextIs (run (loadData params) 0xC4220008) (fIs 2 0x78563492) = true := by decide
theorem test_lhu_odd :
    stopsIs (run (loadData params) 0x94220009) (.addressErrorLoad 0x10010009) 0x00400000 false = true := by decide
theorem test_lwc1_odd :
    stopsIs (run (loadData params) 0xC422000A) (.addressErrorLoad 0x1001000A) 0x00400000 false = true := by decide
theorem test_sb :
    nextIs (run (start params [(1, 0x10010000), (2, 0x12345678)] []) 0xA0220008)
      (bytesAre 0x10010008 [0x78]) = true := by decide
theorem test_sh_big :
    nextIs (run (start params [(1, 0x10010000), (2, 0x12345678)] []) 0xA4220008)
      (bytesAre 0x10010008 [0x56, 0x78]) = true := by decide
theorem test_sh_little :
    nextIs (run (start little [(1, 0x10010000), (2, 0x12345678)] []) 0xA4220008)
      (bytesAre 0x10010008 [0x78, 0x56]) = true := by decide
theorem test_sw_big :
    nextIs (run (start params [(1, 0x10010000), (2, 0x12345678)] []) 0xAC220008)
      (bytesAre 0x10010008 [0x12, 0x34, 0x56, 0x78]) = true := by decide
theorem test_sw_odd :
    stopsIs (run (start params [(1, 0x10010000), (2, 0x12345678)] []) 0xAC220002)
      (.addressErrorStore 0x10010002) 0x00400000 false = true := by decide
theorem test_sb_unallocated :
    stopsIs (run (start params [(1, 0x10010000), (2, 0x12345678)] []) 0xA022FFFF)
      (.unallocatedAccess 0x1000FFFF) 0x00400000 false = true := by decide
theorem test_swc1_little :
    nextIs (run (start little [(1, 0x10010000)] [(2, 0x40490FDB)]) 0xE4220008)
      (bytesAre 0x10010008 [0xDB, 0x0F, 0x49, 0x40]) = true := by decide
theorem test_swc1_text :
    refusedIs (run (start params [(1, 0x00400000)] []) 0xE4220008) (.storeIntoText 0x00400008) = true := by decide
theorem test_addS :
    nextIs (run (start params [] [(1, 0x3FC00000), (2, 0x40100000)]) 0x460208C0)
      (fIs 3 0x40700000) = true := by decide
theorem test_addS_tie :
    nextIs (run (start params [] [(1, 0x4B800000), (2, 0x3F800000)]) 0x460208C0)
      (fIs 3 0x4B800000) = true := by decide
theorem test_subS :
    nextIs (run (start params [] [(1, 0x3FC00000), (2, 0x40100000)]) 0x460208C1)
      (fIs 3 0xBF400000) = true := by decide
theorem test_mulS :
    nextIs (run (start params [] [(1, 0x3FC00000), (2, 0x40100000)]) 0x460208C2)
      (fIs 3 0x40580000) = true := by decide
theorem test_mulS_overflow :
    nextIs (run (start params [] [(1, 0x7F7FFFFF), (2, 0x7F7FFFFF)]) 0x460208C2)
      (fIs 3 0x7F800000) = true := by decide
theorem test_divS :
    nextIs (run (start params [] [(1, 0x3FC00000), (2, 0x40100000)]) 0x460208C3)
      (fIs 3 0x3F2AAAAB) = true := by decide
theorem test_divS_third :
    nextIs (run (start params [] [(1, 0x3F800000), (2, 0x40400000)]) 0x460208C3)
      (fIs 3 0x3EAAAAAB) = true := by decide
theorem test_movS : nextIs (run (start params [] [(1, 0x7FC00001)]) 0x460008C6) (fIs 3 0x7FC00001) = true := by decide
theorem test_cvtSW : nextIs (run (start params [] [(1, 7)]) 0x468008E0) (fIs 3 0x40E00000) = true := by decide
theorem test_cvtSW_rounds :
    nextIs (run (start params [] [(1, 16777217)]) 0x468008E0) (fIs 3 0x4B800000) = true := by decide
theorem test_cvtWS : nextIs (run (start params [] [(1, 0x40E00000)]) 0x460008E4) (fIs 3 7) = true := by decide
theorem test_cvtWS_tie : nextIs (run (start params [] [(1, 0x40200000)]) 0x460008E4) (fIs 3 2) = true := by decide
theorem test_mfc1 : nextIs (run (start params [] [(1, 0x3F800000)]) 0x44020800) (xIs 2 0x3F800000) = true := by decide
theorem test_mtc1 : nextIs (run (start params [(2, 7)] []) 0x44820800) (fIs 1 7) = true := by decide

/-! ## Fetch, exceptions, hazards (95_test_vectors.md section 2.11) -/

theorem test_fetch_misaligned : stopsIs (step { start params [] [] with pc := 0x00400002 })
    (.addressErrorFetch 0x00400002) 0x00400002 false = true := by decide
theorem test_fetch_unallocated : stopsIs (step { start params [] [] with pc := 0x00500000 })
    (.unallocatedAccess 0x00500000) 0x00500000 false = true := by decide
theorem test_fetch_misaligned_first : stopsIs (step { start params [] [] with pc := 0x00500002 })
    (.addressErrorFetch 0x00500002) 0x00500002 false = true := by decide
theorem test_fetch_outside_text : refusedIs (step { start params [] [] with pc := 0x10010000 })
    (.fetchOutsideText 0x10010000) = true := by decide
theorem test_fetch_no_value : (match step (start params [] []) with
    | .fault (.noValue a) => a == 0x00400000#32
    | _ => false) = true := by decide
theorem test_reserved : stopsIs (run (start params [] []) 0x0000000F) (.reservedInstruction 0x0000000F) 0x00400000
    false = true := by decide
theorem test_unused_field :
    refusedIs (run (start params [] []) 0x00221860) (.unusedFieldNotZero 0x00221860) = true := by
  decide
theorem test_cp1_unusable :
    stopsIs (run (start noCp1 [] []) 0x460008C5) (.coprocessorUnusable 1) 0x00400000 false = true :=
  by decide
theorem test_overflow_in_slot : stopsIs (run { start slotted [(1, 0x7FFFFFFF), (2, 1)] [] with
    pc := 0x00400004, npc := 0x00400010, ds := true } 0x00221820) .integerOverflow 0x00400000 true = true := by decide
theorem test_transfer_in_slot : refusedIs (run { start slotted [] [] with pc := 0x00400004, ds := true } 0x08100000)
    .controlTransferInDelaySlot = true := by decide
theorem test_load_sets_ld : nextIs (run (withBytes (start loading [(1, 0x10010004)] []) 0x10010004
    [0x12, 0x34, 0x56, 0x78]) 0x8C220000) (fun t => t.ld == some (.gpr 2)) = true := by decide
theorem test_loaded_use : refusedIs (run { start loading [] [] with ld := some (.gpr 2) } 0x00421821)
    (.useOfLoadedRegister (.gpr 2)) = true := by decide
theorem test_loaded_write : nextIs (run { start loading [(3, 5)] [] with ld := some (.gpr 2) } 0x00631021)
    (fun t => readX t 2 == 10 && t.ld == none) = true := by decide
theorem test_pc_wraps :
    nextIs (run { start params [] [] with pc := 0xFFFFFFFC } 0x00000000) (fun t => t.pc == 0) = true := by
  decide
theorem test_reset_runs : nextIs (run State.reset 0x3C021234) (xIs 2 0x12340000) = true := by decide

/-! ## Witnesses: states and operands that meet the hypotheses of the obligations -/

/-- A state with every delay on, outside a slot, `x[9]` just loaded. -/
def busy : State :=
  { start { slotted with loadDelay := true } [(1, 0x10010000), (2, 7)] [] with ld := some (.gpr 9) }

/-- The same state in a delay slot. -/
def inSlot : State := { busy with ds := true }

/-- Data bytes at the first and the last allocated data addresses. -/
def dataState (p : Params) (x1 : Word) : State :=
  withBytes (withBytes (start p [(1, x1), (2, 0x12345678)] [(2, 0x40490FDB)]) 0x10010000 [0x80, 0x7F, 0x92, 0x34])
    0x10010FFC [1, 2, 3, 4]

/-- A word placed at `pc`. -/
def fetching (p : Params) (v : Nat) : State := (start p [] []).withFetchWord 32 v

theorem witness_EncodeInvertsStrictDecode :
    decode true 0x00221820#32 = .instr (.add 3 1 2) :=
  by decide

theorem witness_ReservedWordsRaise :
    fetchedWord (fetching params 0x0000000F) = some 0x0000000F#32 ∧
      Cp1Allows (fetching params 0x0000000F) 0x0000000F#32 ∧ ReservedSelector 0x0000000F#32 :=
  ⟨by decide, by decide, .inl (by decide)⟩

theorem witness_ReservedWordsRaise_items :
    ReservedSelector 0x00000001#32 ∧ ReservedSelector 0x0000003F#32 ∧ ReservedSelector 0x04020000#32 ∧
      ReservedSelector 0x041F0000#32 ∧ ReservedSelector 0x18010000#32 ∧ ReservedSelector 0x1C1F0000#32 ∧
      ReservedSelector 0x40000000#32 ∧ ReservedSelector 0x4C000000#32 ∧ ReservedSelector 0x462208C0#32 ∧
      ReservedSelector 0x50000000#32 ∧ ReservedSelector 0xFC000000#32 :=
  ⟨.inl (by decide), .inl (by decide), .inr (.inl (by decide)), .inr (.inl (by decide)),
    .inr (.inr (.inl (by decide))), .inr (.inr (.inl (by decide))),
    .inr (.inr (.inr (.inl (by decide)))), .inr (.inr (.inr (.inl (by decide)))),
    .inr (.inr (.inr (.inr (.inl (by decide))))), .inr (.inr (.inr (.inr (.inr (by decide))))),
    .inr (.inr (.inr (.inr (.inr (by decide)))))⟩

theorem witness_UnusedFieldBits :
    (0x7C0#32 &&& unusedMask (.add 3 1 2) = 0x7C0#32 ∧ 0x7C0#32 ≠ 0#32) ∧
      decode false 0x00221FE0#32 = .instr (.add 3 1 2) ∧ 0x00221FE0#32 ≠ encode (.add 3 1 2) ∧
      fetchedWord (fetching params 0x00221FE0) = some 0x00221FE0#32 ∧ Cp1Allows (fetching params 0x00221FE0) 0x00221FE0#32 ∧
      params.strictUnused = true ∧ ({ params with strictUnused := false } : Params).strictUnused = false :=
  by decide

theorem witness_BranchTargets :
    branchLabelInRange 0x00400000#32 0x003E0004#32 = true ∧ branchLabelInRange 0x00400000#32 0x00420000#32 = true :=
  by decide

theorem witness_JumpTargets :
    jumpLabelInRange 0x00400000#32 0x0FFFFFFC#32 = true ∧ jumpLabelInRange 0x00400000#32 0x00000000#32 = true ∧
      (0x0FFFFFFC#32).extractLsb' 0 28 = 0xFFFFFFC#28 :=
  by decide

theorem witness_StepRunsDecodedInstruction :
    fetchedWord (fetching params 0x00221820) = some 0x00221820#32 ∧ Cp1Allows (fetching params 0x00221820) 0x00221820#32 ∧
      decode (fetching params 0x00221820).params.strictUnused 0x00221820#32 = .instr (.add 3 1 2) :=
  by decide

theorem witness_FetchByteOrder :
    ∀ p ∈ [params, little], let s := withBytes (start p [] []) 0x00400000 [0, 0x22, 0x18, 0x20]
      s.pc.toNat % 4 = 0 ∧ AllBytesIn s.params.memAlloc s.pc 4 ∧ AllBytesIn s.params.text s.pc 4 ∧
      Memory.read s.mem s.pc.toNat = some 0 ∧ Memory.read s.mem (s.pc + 1#32).toNat = some 0x22 ∧
      Memory.read s.mem (s.pc + 2#32).toNat = some 0x18 ∧ Memory.read s.mem (s.pc + 3#32).toNat = some 0x20 :=
  by decide

theorem witness_FetchStopsInOrder :
    let s := start params [] []
    ({ s with pc := 0x00500002 } : State).pc.toNat % 4 ≠ 0 ∧
      (({ s with pc := 0x00401000 } : State).pc.toNat % 4 = 0 ∧ ¬AllBytesIn s.params.memAlloc 0x00401000 4) ∧
      (({ s with pc := 0x10010FFC } : State).pc.toNat % 4 = 0 ∧ AllBytesIn s.params.memAlloc 0x10010FFC 4 ∧
        ¬AllBytesIn s.params.text 0x10010FFC 4) ∧
      (s.pc.toNat % 4 = 0 ∧ AllBytesIn s.params.memAlloc s.pc 4 ∧ AllBytesIn s.params.text s.pc 4 ∧
        Memory.read s.mem (s.pc + BitVec.ofNat 32 3).toNat = none) :=
  by decide

theorem witness_CoprocessorUnusable :
    (fetchedWord (fetching noCp1 0x462208C0) = some 0x462208C0#32 ∧ noCp1.cp1Usable = false ∧ IsCp1Opcode 0x462208C0#32 ∧
      IsCp1Opcode 0xC4220000#32 ∧ IsCp1Opcode 0xE4220000#32) ∧
      (usesCp1 (.swc1 2 8 1) = true ∧ usesCp1 (.addS 3 1 2) = true) ∧ params.cp1Usable = true ∧
      (fetchedWord (fetching noCp1 0x40026000) = some 0x40026000#32 ∧ opcodeOf 0x40026000#32 ∈ [0x10#6, 0x12#6, 0x13#6]) :=
  by decide

theorem witness_PlacedWordRunsNext :
    (start params [] []).pc.toNat % 4 = 0 ∧ params.cp1Usable = true ∧ usesCp1 (.add 3 1 2) = false :=
  by decide

theorem witness_UnsignedAddAndSubtract :
    busy.params.loadDelay = true ∧ NoLoadedUse busy [.gpr 1, .gpr 2] ∧ NoLoadedUse busy [.gpr 0, .gpr 31] :=
  by decide

theorem witness_RegisterLogic :
    busy.params.loadDelay = true ∧ NoLoadedUse busy [.gpr 1, .gpr 2] ∧ NoLoadedUse busy [.gpr 0, .gpr 31] :=
  by decide

theorem witness_SetOnLessThan :
    busy.params.loadDelay = true ∧ NoLoadedUse busy [.gpr 1, .gpr 2] ∧ NoLoadedUse busy [.gpr 0, .gpr 31] :=
  by decide

theorem witness_MultiplyIsExact :
    busy.params.loadDelay = true ∧ NoLoadedUse busy [.gpr 1, .gpr 2] ∧ NoLoadedUse busy [.gpr 0, .gpr 31] :=
  by decide

theorem witness_SetOnLessThan_clauses :
    let s := start params [(1, 0xFFFFFFFF), (2, 1)] []
    (readX s 1).toInt < (readX s 2).toInt ∧ ¬(readX s 2).toInt < (readX s 1).toInt ∧
      (readX s 2).toNat < (readX s 1).toNat ∧ ¬(readX s 1).toNat < (readX s 2).toNat :=
  by decide

theorem witness_SignedAddSubtractTraps :
    let s := start params [(1, 0x7FFFFFFF), (2, 1), (3, 0x80000000)] []
    NoLoadedUse s [.gpr 1, .gpr 2] ∧
      ((readX s 1).getLsbD 31 = (readX s 2).getLsbD 31 ∧ (readX s 1 + readX s 2).getLsbD 31 ≠ (readX s 1).getLsbD 31) ∧
      ¬((readX s 1).getLsbD 31 = (readX s 3).getLsbD 31 ∧ (readX s 1 + readX s 3).getLsbD 31 ≠ (readX s 1).getLsbD 31) ∧
      ((readX s 3).getLsbD 31 ≠ (readX s 2).getLsbD 31 ∧ (readX s 3 - readX s 2).getLsbD 31 ≠ (readX s 3).getLsbD 31) ∧
      ¬((readX s 3).getLsbD 31 ≠ (readX s 3).getLsbD 31 ∧ (readX s 3 - readX s 3).getLsbD 31 ≠ (readX s 3).getLsbD 31) :=
  by decide

theorem witness_OverflowIsOutOfRange :
    ∃ t, exec (.add 0 1 2) (start params [(1, 0x7FFFFFFF), (2, 1)] []) = .fault (.stopped .integerOverflow 0x00400000 false t) ∧
      NoLoadedUse (start params [(1, 0x7FFFFFFF), (2, 1)] []) [.gpr 1, .gpr 2] :=
  ⟨_, rfl, by decide⟩

theorem witness_ConstantShifts :
    NoLoadedUse busy [.gpr 2] ∧ busy.params.loadDelay = true :=
  by decide

theorem witness_VariableShifts :
    NoLoadedUse busy [.gpr 2, .gpr 1] ∧ (0x10010000 : Nat) % 32 = (readX busy 1).toNat % 32 :=
  by decide

theorem witness_SignedDivide :
    NoLoadedUse busy [.gpr 1, .gpr 2] ∧
      (let n := (readX busy 1).toInt; let d := (readX busy 2).toInt; ¬(d = 0 ∨ (n = -2147483648 ∧ d = -1))) ∧
      (readX busy 0).toInt = 0 ∧
      (let s := start params [(1, 0x80000000), (2, 0xFFFFFFFF)] []; (readX s 1).toInt = -2147483648 ∧ (readX s 2).toInt = -1) :=
  by decide

theorem witness_UnsignedDivide :
    NoLoadedUse busy [.gpr 1, .gpr 2] ∧ readX busy 2 ≠ 0#32 ∧ NoLoadedUse busy [.gpr 1, .gpr 0] ∧ readX busy 0 = 0#32 :=
  by decide

theorem witness_HiLoMoves :
    NoLoadedUse busy [.gpr 1] ∧ NoLoadedUse busy [.gpr 31] :=
  by decide

theorem witness_HiLoReadAndWrittenOnlyThere :
    ∃ t, exec (.mthi 2) busy = .next t ∧ t.hi ≠ busy.hi ∧ ∀ r, (Instr.mthi 2) ≠ .mfhi r ∧ (Instr.mthi 2) ≠ .mflo r :=
  ⟨_, rfl, by decide, by decide⟩

theorem witness_ArithmeticImmediates :
    NoLoadedUse busy [.gpr 2] ∧ ((readX busy 2).toInt < (0x7FFF#16).toInt ∧ ¬(readX busy 2).toInt < (0x8000#16).toInt) ∧
      ((readX busy 2).toNat < ((0xFFFF#16).signExtend 32).toNat ∧ ¬(readX busy 2).toNat < ((0x0000#16).signExtend 32).toNat) :=
  by decide

theorem witness_LogicalImmediates :
    NoLoadedUse busy [.gpr 2] :=
  by decide

theorem witness_ConditionalBranches :
    NotInSlot busy ∧ NoLoadedUse busy [.gpr 1] ∧ NoLoadedUse busy [.gpr 1, .gpr 2] ∧ readX busy 1 ≠ readX busy 2 ∧
      readX busy 0 = 0#32 ∧ (readX busy 2).getLsbD 31 = false ∧
      (readX (start params [(1, 0x80000000)] []) 1).getLsbD 31 = true :=
  by decide

theorem witness_RegisterJumps :
    NotInSlot busy ∧ NoLoadedUse busy [.gpr 2] ∧ (∃ t, exec (.jr 2) busy = .next t ∧ (readX busy 2).toNat % 4 ≠ 0) ∧
      ∃ t u, exec (.jalr 31 2) (busy.withFetchWord 32 0) = .next t ∧ (readX busy 2).toNat % 4 ≠ 0 ∧ busy.params.branchDelay = true ∧
        step { t with mem := writeBytes t.mem (accessAddrs 0x00400004 4) [0, 0, 0, 0] } = .next u :=
  ⟨by decide, by decide, ⟨_, rfl, by decide⟩, ⟨_, _, rfl, by decide, by decide, rfl⟩⟩

theorem witness_RegisterJumps_noDelay :
    ∃ t, exec (.jr 2) (start params [(2, 0x00400102)] []) = .next t ∧
      (readX (start params [(2, 0x00400102)] []) 2).toNat % 4 ≠ 0 ∧ params.branchDelay = false :=
  ⟨_, rfl, by decide, by decide⟩

theorem witness_RegionJumps :
    NotInSlot busy ∧ NotInSlot (start params [] []) :=
  by decide

theorem witness_DelaySlotState :
    (∃ t, busy.params.branchDelay = true ∧ exec (.add 3 1 2) busy = .next t ∧ isControlTransfer (.add 3 1 2) = false) ∧
      (isControlTransfer (.bne 0 0 1) = true ∧ inSlot.params.branchDelay = true ∧ inSlot.ds = true) ∧
      ∃ t, params.branchDelay = false ∧ step (fetching params 0) = .next t :=
  ⟨⟨_, by decide, rfl, by decide⟩, by decide, ⟨_, by decide, rfl⟩⟩

/-- A state whose delay slot holds the word 0. -/
def slotState : State := withBytes (start slotted [] []) 0x00400004 [0, 0, 0, 0]

theorem witness_DelaySlotNopAgrees :
    ∃ t, slotState.params.branchDelay = true ∧ slotState.ds = false ∧ slotState.npc = slotState.pc + 4#32 ∧
      isControlTransfer (.beq 0 0 3) = true ∧ exec (.beq 0 0 3) slotState = .next t ∧ fetchedWord t = some 0x00000000#32 :=
  ⟨_, by decide, by decide, by decide, by decide, rfl, by decide⟩

theorem witness_DelaySlotNopAgrees_notTaken :
    ∃ t, exec (.bne 0 0 3) slotState = .next t ∧ fetchedWord t = some 0x00000000#32 :=
  ⟨_, rfl, by decide⟩

theorem witness_ProgramCounterStaysAligned :
    ∃ t, exec (.jr 1) busy = .next t ∧ (readX busy 1).toNat % 4 = 0 ∧ busy.pc.toNat % 4 = 0 ∧ busy.npc.toNat % 4 = 0 ∧
      busy.params.branchDelay = true :=
  ⟨_, rfl, by decide⟩

theorem witness_LoadBytes :
    let s := dataState params 0x10010000
    NoLoadedUse s [.gpr 1] ∧ inSet s.params.memAlloc (readX s 1 + (0xFFFF#16).signExtend 32).toNat = false ∧
      (inSet s.params.memAlloc (readX s 1 + (0#16).signExtend 32).toNat = true ∧
        Memory.read s.mem (readX s 1 + (0#16).signExtend 32).toNat = some 0x80) ∧
      (inSet s.params.memAlloc (readX s 1 + (0xFFF#16).signExtend 32).toNat = true ∧
        Memory.read s.mem (readX s 1 + (0xFFF#16).signExtend 32).toNat = some 4) :=
  by decide

theorem witness_LoadHalfwords :
    let s := dataState params 0x10010000
    NoLoadedUse s [.gpr 1] ∧ (readX s 1 + (1#16).signExtend 32).toNat % 2 ≠ 0 ∧
      ((readX s 1 + (0x1000#16).signExtend 32).toNat % 2 = 0 ∧
        ¬AllBytesIn s.params.memAlloc (readX s 1 + (0x1000#16).signExtend 32) 2) ∧
      ((readX s 1 + (0xFFE#16).signExtend 32).toNat % 2 = 0 ∧
        AllBytesIn s.params.memAlloc (readX s 1 + (0xFFE#16).signExtend 32) 2 ∧
        Memory.read s.mem (readX s 1 + (0xFFE#16).signExtend 32).toNat = some 3 ∧
        Memory.read s.mem (readX s 1 + (0xFFE#16).signExtend 32 + 1#32).toNat = some 4) :=
  by decide

theorem witness_LoadWords :
    let s := dataState params 0x10010000
    NoLoadedUse s [.gpr 1] ∧ s.params.cp1Usable = true ∧ noCp1.cp1Usable = false ∧
      (readX s 1 + (0xFFE#16).signExtend 32).toNat % 4 ≠ 0 ∧
      ((readX s 1 + (0x1000#16).signExtend 32).toNat % 4 = 0 ∧
        ¬AllBytesIn s.params.memAlloc (readX s 1 + (0x1000#16).signExtend 32) 4) ∧
      ((readX s 1 + (0xFFC#16).signExtend 32).toNat % 4 = 0 ∧
        AllBytesIn s.params.memAlloc (readX s 1 + (0xFFC#16).signExtend 32) 4 ∧
        Memory.read s.mem (readX s 1 + (0xFFC#16).signExtend 32).toNat = some 1 ∧
        Memory.read s.mem (readX s 1 + (0xFFC#16).signExtend 32 + 1#32).toNat = some 2 ∧
        Memory.read s.mem (readX s 1 + (0xFFC#16).signExtend 32 + 2#32).toNat = some 3 ∧
        Memory.read s.mem (readX s 1 + (0xFFC#16).signExtend 32 + 3#32).toNat = some 4) :=
  by decide

theorem witness_StoreBytesAndHalfwords :
    let s := dataState params 0x10010000
    let u := dataState params 0x00400000
    NoLoadedUse s [.gpr 1, .gpr 2] ∧ inSet s.params.memAlloc (readX s 1 + (0xFFFF#16).signExtend 32).toNat = false ∧
      (inSet u.params.memAlloc (readX u 1 + (0xFFF#16).signExtend 32).toNat = true ∧
        inSet u.params.text (readX u 1 + (0xFFF#16).signExtend 32).toNat = true) ∧
      (inSet s.params.memAlloc (readX s 1 + (0xFFF#16).signExtend 32).toNat = true ∧
        inSet s.params.text (readX s 1 + (0xFFF#16).signExtend 32).toNat = false) ∧
      (readX s 1 + (1#16).signExtend 32).toNat % 2 ≠ 0 ∧
      ((readX s 1 + (0x1000#16).signExtend 32).toNat % 2 = 0 ∧
        ¬AllBytesIn s.params.memAlloc (readX s 1 + (0x1000#16).signExtend 32) 2) ∧
      ((readX u 1 + (0xFFE#16).signExtend 32).toNat % 2 = 0 ∧
        AllBytesIn u.params.memAlloc (readX u 1 + (0xFFE#16).signExtend 32) 2 ∧
        ¬NoByteIn u.params.text (readX u 1 + (0xFFE#16).signExtend 32) 2) ∧
      ((readX s 1 + (0xFFE#16).signExtend 32).toNat % 2 = 0 ∧
        AllBytesIn s.params.memAlloc (readX s 1 + (0xFFE#16).signExtend 32) 2 ∧
        NoByteIn s.params.text (readX s 1 + (0xFFE#16).signExtend 32) 2) :=
  by decide

theorem witness_StoreWords :
    let s := dataState params 0x10010000
    let u := dataState params 0x00400000
    NoLoadedUse s [.gpr 1, .gpr 2] ∧ s.params.cp1Usable = true ∧ noCp1.cp1Usable = false ∧ NoLoadedUse s [.gpr 1, .fpr 2] ∧
      (readX s 1 + (2#16).signExtend 32).toNat % 4 ≠ 0 ∧
      ((readX s 1 + (0x1000#16).signExtend 32).toNat % 4 = 0 ∧
        ¬AllBytesIn s.params.memAlloc (readX s 1 + (0x1000#16).signExtend 32) 4) ∧
      ((readX u 1 + (0xFFC#16).signExtend 32).toNat % 4 = 0 ∧
        AllBytesIn u.params.memAlloc (readX u 1 + (0xFFC#16).signExtend 32) 4 ∧
        ¬NoByteIn u.params.text (readX u 1 + (0xFFC#16).signExtend 32) 4) ∧
      ((readX s 1 + (0xFFC#16).signExtend 32).toNat % 4 = 0 ∧
        AllBytesIn s.params.memAlloc (readX s 1 + (0xFFC#16).signExtend 32) 4 ∧
        NoByteIn s.params.text (readX s 1 + (0xFFC#16).signExtend 32) 4) :=
  by decide

theorem witness_MisalignedDataAccess :
    let s := dataState params 0x10010000
    (dataAccess (.swc1 2 2 1) = some ⟨true, 1, 2, 4⟩ ∧ MayAccess (.swc1 2 2 1) s ∧ (accessAddress s ⟨true, 1, 2, 4⟩).toNat % 4 ≠ 0) ∧
      (dataAccess (.lh 2 2 1) = some ⟨false, 1, 2, 2⟩ ∧ (accessAddress s ⟨false, 1, 2, 2⟩).toNat % 2 = 0) := by
  unfold MayAccess; decide

theorem witness_UnallocatedAccessRaises :
    let s := dataState params 0x10010000
    (dataAccess (.lw 2 0x1000 1) = some ⟨false, 1, 0x1000, 4⟩ ∧ MayAccess (.lw 2 0x1000 1) s ∧
      (accessAddress s ⟨false, 1, 0x1000, 4⟩).toNat % 4 = 0 ∧
      ¬AllBytesIn s.params.memAlloc (accessAddress s ⟨false, 1, 0x1000, 4⟩) 4) ∧
      ((0x00401000#32).toNat % 4 = 0 ∧ ¬AllBytesIn s.params.memAlloc 0x00401000#32 4) := by
  unfold MayAccess; decide

theorem witness_TextIsReadOnly :
    let s := dataState params 0x00400000
    (dataAccess (.sw 2 0xFFC 1) = some ⟨true, 1, 0xFFC, 4⟩ ∧ MayAccess (.sw 2 0xFFC 1) s ∧
      (accessAddress s ⟨true, 1, 0xFFC, 4⟩).toNat % 4 = 0 ∧
      AllBytesIn s.params.memAlloc (accessAddress s ⟨true, 1, 0xFFC, 4⟩) 4 ∧
      ¬NoByteIn s.params.text (accessAddress s ⟨true, 1, 0xFFC, 4⟩) 4) ∧
      ((0x10010000#32).toNat % 4 = 0 ∧ AllBytesIn s.params.memAlloc 0x10010000#32 4 ∧ ¬AllBytesIn s.params.text 0x10010000#32 4) := by
  unfold MayAccess; decide

theorem witness_LoadWithoutValueFaults :
    let s := dataState params 0x10010000
    dataAccess (.lhu 2 4 1) = some ⟨false, 1, 4, 2⟩ ∧ MayAccess (.lhu 2 4 1) s ∧ (accessAddress s ⟨false, 1, 4, 2⟩).toNat % 2 = 0 ∧
      AllBytesIn s.params.memAlloc (accessAddress s ⟨false, 1, 4, 2⟩) 2 ∧
      Memory.read s.mem (accessAddress s ⟨false, 1, 4, 2⟩ + BitVec.ofNat 32 1).toNat = none := by
  unfold MayAccess; decide

theorem witness_MemoryByteOrder :
    (1 ∈ [1, 2, 4] ∧ 4 ∈ [1, 2, 4]) ∧ params.endian = .big ∧ little.endian = .little :=
  by decide

theorem witness_LoadAfterStore :
    (∃ t, exec (.sw 2 0xFFC 1) (dataState params 0x10010000) = .next t) ∧ (∃ t, exec (.sh 2 0xFFE 1) (dataState params 0x10010000) = .next t) ∧
      (∃ t, exec (.sb 2 0xFFF 1) (dataState params 0x10010000) = .next t) ∧ ∃ t, exec (.swc1 2 0 1) (dataState params 0x10010000) = .next t :=
  ⟨⟨_, rfl⟩, ⟨_, rfl⟩, ⟨_, rfl⟩, ⟨_, rfl⟩⟩

theorem witness_OnlyStoresChangeMemory :
    (∃ t, exec (.lw 2 0 1) (dataState params 0x10010000) = .next t) ∧ (∀ a, dataAccess (.lw 2 0 1) = some a → a.store = false) ∧
      ∃ t, exec (.sw 2 0 1) (dataState params 0x10010000) = .next t ∧ dataAccess (.sw 2 0 1) = some ⟨true, 1, 0, 4⟩ :=
  ⟨⟨_, rfl⟩, by simp [dataAccess], ⟨_, rfl, rfl⟩⟩

theorem witness_FloatArithmetic :
    busy.params.cp1Usable = true ∧ NoLoadedUse busy [.fpr 0, .fpr 31] ∧ IsFinite 0x7F7FFFFF#32 := by
  unfold IsFinite; decide

theorem witness_FloatMoves :
    busy.params.cp1Usable = true ∧ NoLoadedUse busy [.fpr 31] ∧ NoLoadedUse busy [.gpr 0] :=
  by decide

theorem witness_IntegerToFloat :
    busy.params.cp1Usable = true ∧ NoLoadedUse busy [.fpr 31] ∧ (16777216#32).toInt.natAbs ≤ 2 ^ 24 :=
  by decide

theorem witness_FloatToInteger :
    busy.params.cp1Usable = true ∧ NoLoadedUse busy [.fpr 31] ∧ IsFinite 0xCF000000#32 ∧ ¬IsFinite 0x7F800000#32 ∧ ¬IsFinite 0x7FC00001#32 ∧
      RoundsToInt .nearestEven (fpValue 0xCF000000#32) (-2147483648) ∧ RoundsToInt .down (fpValue 0x4F000000#32) 2147483648 ∧
      RoundsToInt .up (fpValue 0x40200000#32) 3 ∧ RoundsToInt .towardZero (fpValue 0xC0200000#32) (-2) := by
  unfold IsFinite RoundsToInt; decide

theorem witness_FloatResultsRoundedOnce :
    IsFinite 0x7F7FFFFF#32 ∧ IsFinite 0x00000001#32 ∧ fpValue 0x00000001#32 ≠ 0 := by
  unfold IsFinite; decide

theorem witness_FloatSpecialOperands :
    isNaN (fpMul .ieee 0x3F800000#32 0#32) = false ∧ isNaN (fpDiv .ieee 0x3F800000#32 0#32) = false ∧ IsFinite 0x80000000#32 ∧
      (isInf 0x7F800000#32 = true ∧ isInf 0xFF800000#32 = true ∧ fpSign 0x7F800000#32 ≠ fpSign 0xFF800000#32) ∧
      (isNaN 0x00000001#32 = false ∧ isZero 0x00000001#32 = false) ∧ (isZero 0x00000000#32 = true ∧ isZero 0x80000000#32 = true) ∧
      isNaN 0x7F800001#32 = true := by
  unfold IsFinite; decide

theorem witness_ConservativeNumerics :
    (isNaN 0x40200000#32 = false ∧ isSubnormal 0x40200000#32 = false ∧ isInf 0x40200000#32 = false) ∧
      (isNaN 0x7F800000#32 = false ∧ isSubnormal 0x7F800000#32 = false) ∧
      (isNaN (fpAdd .ieee 0x40200000#32 0x7F800000#32) = false ∧ isSubnormal (fpAdd .ieee 0x40200000#32 0x7F800000#32) = false) ∧
      (isNaN (fpSub .ieee 0x40200000#32 0x7F800000#32) = false ∧ isSubnormal (fpSub .ieee 0x40200000#32 0x7F800000#32) = false) ∧
      (isNaN (fpMul .ieee 0x40200000#32 0x7F800000#32) = false ∧ isSubnormal (fpMul .ieee 0x40200000#32 0x7F800000#32) = false) ∧
      (isNaN (fpDiv .ieee 0x40200000#32 0x7F800000#32) = false ∧ isSubnormal (fpDiv .ieee 0x40200000#32 0x7F800000#32) = false) ∧
      RoundsToInt .nearestEven (fpValue 0x40200000#32) 2 := by
  unfold RoundsToInt; decide

theorem witness_StopsArePrecise :
    (∃ t, step (fetching params 0x0000000C) = .fault (.stopped .syscall 0x00400000 false t)) ∧
      ∃ t, step (inSlot.withFetchWord 32 0x0000000D) = .fault (.stopped .breakpoint 0x003FFFFC true t) :=
  ⟨⟨_, rfl⟩, ⟨_, rfl⟩⟩

theorem witness_CausesAreJustified :
    ∃ t, step ((start params [(1, 0x7FFFFFFF), (2, 1)] []).withFetchWord 32 0x00221820) =
      .fault (.stopped .integerOverflow 0x00400000 false t) :=
  ⟨_, rfl⟩

theorem witness_LoadDelay :
    (∃ t, exec (.add 3 1 2) busy = .next t) ∧ (busy.params.loadDelay = true ∧ busy.ld = some (.gpr 9) ∧ RegName.gpr 9 ∈ sources (.beq 1 9 0) ∧
      NotInSlot busy ∧ busy.params.cp1Usable = true) ∧
      exec (.addu 3 9 9) busy = .refused (.useOfLoadedRegister (.gpr 9)) ∧ (∃ t, step (busy.withFetchWord 32 0x00221820) = .next t) ∧
      ∃ t, step (busy.withFetchWord 32 0x0000000C) = .fault (.stopped .syscall 0x00400000 false t) :=
  ⟨⟨_, rfl⟩, by decide, rfl, ⟨_, rfl⟩, ⟨_, rfl⟩⟩

theorem witness_StepKeepsInvariant :
    ∃ t, Inv (busy.withFetchWord 32 0x00221820) ∧ step (busy.withFetchWord 32 0x00221820) = .next t :=
  ⟨_, ⟨by decide, by decide, by decide, by decide⟩, rfl⟩

theorem witness_ProgramNeverChanges :
    let s := (dataState params 0x10010000).withFetchWord 32 0xAC220000
    (∃ t, step s = .next t) ∧ inSet s.params.text 0x00400FFF = true ∧ inSet s.params.memAlloc 0x10011000 = false :=
  ⟨⟨_, rfl⟩, by decide, by decide⟩

end Sys2Proof.Machine.Tests
end

section
/-! Inversion and frame: what a fetch hands to the execution, and what an instruction that completes has done
(10_state.md R30). The statements about the state are read off these. -/

namespace Sys2Proof.Machine

/-! ## Fetch -/

theorem isCop1Word_iff (w : Word) : isCop1Word w = true ↔ IsCp1Opcode w := by
  simp [isCop1Word, or_assoc]

theorem decodeFetched_eq_run {s : State} {w : Word} {i : Instr} :
    decodeFetched s w = .run i ↔ Cp1Allows s w ∧ decode s.params.strictUnused w = .instr i := by
  have hguard : (!s.params.cp1Usable && isCop1Word w) = true ↔ ¬Cp1Allows s w := by
    simp only [Cp1Allows, ← isCop1Word_iff, not_or, Bool.and_eq_true, Bool.not_eq_true', Bool.not_eq_true,
      Bool.not_eq_false]
  unfold decodeFetched
  split
  next hc => simp [hguard.1 hc]
  next hc =>
    have ha : Cp1Allows s w := by
      by_contra hn
      exact hc (hguard.2 hn)
    cases hd : decode s.params.strictUnused w <;> simp [ha]

/-- The step executes `i` exactly when the fetch hands it over. -/
theorem fetchInstr_eq_run {s : State} {i : Instr} : fetchInstr s = .run i ↔ Runs s i := by
  unfold fetchInstr Runs fetchedWord
  cases aligned s.pc 4
  case false => simp
  case true =>
    cases allIn s.params.memAlloc s.pc 4
    case false => simp
    case true =>
      cases allIn s.params.text s.pc 4
      case false => simp
      case true => cases readBytes s.mem (accessAddrs s.pc 4) <;> simp [decodeFetched_eq_run]

theorem step_of_runs {s : State} {i : Instr} (h : Runs s i) : step s = exec i s := by
  unfold step
  rw [fetchInstr_eq_run.2 h]

/-! ## What a completed instruction has done -/

/-- The six instructions of 41_rtype_muldiv.md that write `HI` or `LO` (10_state.md R24). -/
def IsHiLoWriter (i : Instr) : Prop :=
  (∃ r, i = .mthi r ∨ i = .mtlo r) ∨
  ∃ rs rt, i = .mult rs rt ∨ i = .multu rs rt ∨ i = .div rs rt ∨ i = .divu rs rt

/-- Where control transfer `i` can go from `s`: a branch target, a region target, or the register of `jr` and `jalr`. -/
def IsTarget (i : Instr) (s : State) (w : Word) : Prop :=
  (∃ imm, w = branchTarget s.pc imm) ∨ (∃ target, w = jumpTarget s.pc target) ∨
  ∃ rd rs, (i = .jr rs ∨ i = .jalr rd rs) ∧ w = readX s rs

/-- The states in which `i` can leave `s` when it completes. A transfer that links no register writes register 0, which
changes nothing. -/
inductive Completion (i : Instr) (s : State) : State → Prop where
  | gpr (rd : Reg) (v : Word) (loaded : Option RegName) (hct : isControlTransfer i = false) :
      Completion i s (nextInstr (writeX s rd v) loaded)
  | fpr (fd : Reg) (v : Word) (loaded : Option RegName) (hct : isControlTransfer i = false) :
      Completion i s (nextInstr (writeF s fd v) loaded)
  | hiLo (a b : Word) (hw : IsHiLoWriter i) (hct : isControlTransfer i = false) :
      Completion i s (nextInstr (writeHiLo s a b) none)
  | stored (a : DataAccess) (v : Word) (ha : dataAccess i = some a) (hs : a.store = true)
      (hct : isControlTransfer i = false) : Completion i s (nextInstr (storeBytes s (accessAddress s a) a.bytes v) none)
  | notTaken (hct : isControlTransfer i = true) : Completion i s (notTaken s)
  | taken (rd : Reg) (link w : Word) (hw : IsTarget i s w) (hct : isControlTransfer i = true) :
      Completion i s (branchTo (writeX s rd link) w)

section
variable {i : Instr} {s t : State}

theorem completion_setX {rd : Reg} {v : Word} (hct : isControlTransfer i = false) (h : setX s rd v = .next t) :
    Completion i s t := by
  cases h; exact .gpr rd v none hct

theorem completion_setF {fd : Reg} {v : Word} (hct : isControlTransfer i = false) (h : setF s fd v = .next t) :
    Completion i s t := by
  cases h; exact .fpr fd v none hct

theorem completion_setHiLo {a b : Word} (hw : IsHiLoWriter i) (hct : isControlTransfer i = false)
    (h : setHiLo s a b = .next t) : Completion i s t := by
  cases h; exact .hiLo a b hw hct

theorem completion_loadX {rt : Reg} {ea : Word} {n : Nat} {ext : Nat → Nat → Word} (hct : isControlTransfer i = false)
    (h : loadX s rt ea n ext = .next t) : Completion i s t := by
  obtain ⟨bs, -, -, -, hk⟩ := load_next h
  cases hk; exact .gpr _ _ _ hct

theorem completion_store {a : DataAccess} {v : Word} (ha : dataAccess i = some a) (hs : a.store = true)
    (hct : isControlTransfer i = false) (h : store s (accessAddress s a) a.bytes v = .next t) : Completion i s t := by
  obtain ⟨-, -, -, rfl⟩ := store_next h
  exact .stored a v ha hs hct

theorem completion_branchTo {w : Word} (hw : IsTarget i s w) (hct : isControlTransfer i = true) :
    Completion i s (branchTo s w) :=
  .taken 0#5 0#32 w hw hct

theorem completion_branchIf {reads : List RegName} {cond : Bool} {imm : Imm} (hct : isControlTransfer i = true)
    (h : branchIf s reads cond imm = .next t) : Completion i s t := by
  obtain ⟨-, hr⟩ := transferring_next h
  obtain ⟨-, hk⟩ := reading_next hr
  cases hk
  cases cond
  case false => exact .notTaken hct
  case true => exact completion_branchTo (.inl ⟨imm, rfl⟩) hct

/-- A completed instruction with an overflow check did not overflow. -/
theorem next_of_trap {c : Bool} {e : Cause} {k : Result} (h : (if c then raise s e else k) = .next t) :
    k = .next t := by
  cases c
  case false => exact h
  case true => exact absurd h (raise_ne_next s t e)

/-- The inversion of `exec`: all that an instruction which completes can have done. -/
theorem exec_completion (h : exec i s = .next t) : Completion i s t := by
  cases i with
  | sll | srl | sra | sllv | srlv | srav | addu | subu | and | or | xor | nor | slt | sltu | addiu | slti | sltiu
  | andi | ori | xori => exact completion_setX rfl (reading_next h).2
  | lui | mfhi | mflo => exact completion_setX rfl h
  | add | sub | addi => exact completion_setX rfl (next_of_trap (reading_next h).2)
  | mthi r => exact completion_setHiLo (.inl ⟨r, .inl rfl⟩) rfl (reading_next h).2
  | mtlo r => exact completion_setHiLo (.inl ⟨r, .inr rfl⟩) rfl (reading_next h).2
  | mult rs rt | multu rs rt | div rs rt | divu rs rt =>
    exact completion_setHiLo (.inr ⟨rs, rt, by simp⟩) rfl (reading_next h).2
  | lb | lh | lw | lbu | lhu => exact completion_loadX rfl (reading_next h).2
  | sb _ imm rs => exact completion_store (a := ⟨true, rs, imm, 1⟩) rfl rfl rfl (reading_next h).2
  | sh _ imm rs => exact completion_store (a := ⟨true, rs, imm, 2⟩) rfl rfl rfl (reading_next h).2
  | sw _ imm rs => exact completion_store (a := ⟨true, rs, imm, 4⟩) rfl rfl rfl (reading_next h).2
  | swc1 _ imm rs =>
    exact completion_store (a := ⟨true, rs, imm, 4⟩) rfl rfl rfl (reading_next (usingCp1_next h).2).2
  | lwc1 =>
    obtain ⟨bs, -, -, -, hk⟩ := load_next (reading_next (usingCp1_next h).2).2
    cases hk; exact .fpr _ _ _ rfl
  | addS | subS | mulS | divS | movS | cvtSW | cvtWS =>
    exact completion_setF rfl (reading_next (usingCp1_next h).2).2
  | mfc1 =>
    cases (reading_next (usingCp1_next h).2).2
    exact .gpr _ _ _ rfl
  | mtc1 =>
    cases (reading_next (usingCp1_next h).2).2
    exact .fpr _ _ _ rfl
  | bltz | bgez | beq | bne | blez | bgtz => exact completion_branchIf rfl h
  | jr rs =>
    cases (reading_next (transferring_next h).2).2
    exact completion_branchTo (.inr (.inr ⟨0#5, rs, .inl rfl, rfl⟩)) rfl
  | jalr rd rs =>
    cases (reading_next (transferring_next h).2).2
    exact .taken _ _ _ (.inr (.inr ⟨rd, rs, .inr rfl, rfl⟩)) rfl
  | j target =>
    cases (transferring_next h).2
    exact completion_branchTo (.inr (.inl ⟨target, rfl⟩)) rfl
  | jal target =>
    cases (transferring_next h).2
    exact .taken _ _ _ (.inr (.inl ⟨target, rfl⟩)) rfl
  | syscall | breakpoint => exact absurd h (raise_ne_next _ _ _)

/-! ## The parts of a completion -/

theorem Completion.hiLoSame (h : Completion i s t) (hw : ¬IsHiLoWriter i) : HiLoSame s t := by
  cases h with
  | hiLo _ _ h' => exact absurd h' hw
  | gpr | fpr | stored | notTaken | taken => simp [HiLoSame]

theorem Completion.memSame (h : Completion i s t) (hs : ∀ a, dataAccess i = some a → a.store = false) :
    MemSame s t := by
  intro c
  cases h with
  | stored a _ ha hst => simp [hs a ha] at hst
  | gpr | fpr | hiLo | notTaken | taken => simp

theorem Completion.read_outside_access (h : Completion i s t) {a : DataAccess} (ha : dataAccess i = some a) {c : Nat}
    (hc : ∀ k, k < a.bytes → c ≠ (accessAddress s a + BitVec.ofNat 32 k).toNat) :
    Memory.read t.mem c = Memory.read s.mem c := by
  cases h with
  | stored b v hb =>
    obtain rfl : b = a := Option.some.inj (hb.symm.trans ha)
    rw [nextInstr_mem, storeBytes_mem]
    refine read_writeBytes_other _ _ _ _ fun x hx => ?_
    obtain ⟨k, hk, rfl⟩ := (mem_accessAddrs _ _ _).1 hx
    exact hc k hk
  | gpr | fpr | hiLo | notTaken | taken => simp

/-- An instruction that is no control transfer goes on with `NextInstr`. -/
theorem Completion.wentOn (h : Completion i s t) (hct : isControlTransfer i = false) : ∃ l, WentOn s t l := by
  cases h with
  | gpr | fpr | hiLo | stored => exact ⟨_, nextInstr_wentOn (by simp) (by simp) (by simp) (by simp) rfl⟩
  | notTaken ht | taken _ _ _ _ ht => simp [hct] at ht

/-- A control transfer falls through or goes to one of its targets. -/
theorem Completion.transfers (h : Completion i s t) (hct : isControlTransfer i = true) :
    WentPast s t ∨ ∃ w, IsTarget i s w ∧ WentTo s t w := by
  cases h with
  | notTaken => exact .inl (notTaken_wentPast s)
  | taken _ _ w hw => exact .inr ⟨w, hw, branchTo_wentTo w (by simp) (by simp) (by simp)⟩
  | gpr _ _ _ hn | fpr _ _ _ hn | hiLo _ _ _ hn | stored _ _ _ _ hn => simp [hct] at hn

end

end Sys2Proof.Machine
end

section
/-! Two runs side by side: an operation that does not look at the part of the state in which two states differ does the
same at both (10_state.md R24, R26). -/

namespace Sys2Proof.Machine

/-! ## States that the operations do not tell apart -/

/-- States related by `R` agree on all that an operation other than reading `HI` and `LO` looks at, and every operation
keeps them related. -/
structure Indistinct (R : State → State → Prop) : Prop where
  x : ∀ {s u}, R s u → u.x = s.x
  f : ∀ {s u}, R s u → u.f = s.f
  pc : ∀ {s u}, R s u → u.pc = s.pc
  mem : ∀ {s u}, R s u → u.mem = s.mem
  ld : ∀ {s u}, R s u → u.ld = s.ld
  params : ∀ {s u}, R s u → u.params = s.params
  slot : ∀ {s u}, R s u → inDelaySlot u = inDelaySlot s
  sequential : ∀ {s u}, R s u → sequentialPc u = sequentialPc s
  writeX : ∀ {s u}, R s u → ∀ r v, R (writeX s r v) (writeX u r v)
  writeF : ∀ {s u}, R s u → ∀ r v, R (writeF s r v) (writeF u r v)
  writeHi : ∀ {s u}, R s u → ∀ v, R (writeHiLo s v s.lo) (writeHiLo u v u.lo)
  writeLo : ∀ {s u}, R s u → ∀ v, R (writeHiLo s s.hi v) (writeHiLo u u.hi v)
  writeHiLo : ∀ {s u}, R s u → ∀ a b, R (writeHiLo s a b) (writeHiLo u a b)
  storeBytes : ∀ {s u}, R s u → ∀ a n v, R (storeBytes s a n v) (storeBytes u a n v)
  movePc : ∀ {s u}, R s u → ∀ n b l, R (movePc s n b l) (movePc u n b l)

/-- Where `o` completes, `o'` completes in a related state. -/
def Matches (R : State → State → Prop) (o o' : Result) : Prop := ∀ t, o = .next t → ∃ u, o' = .next u ∧ R t u

section
variable {R : State → State → Prop} {s u : State} {k k' : Result}

theorem Matches.next (h : R s u) : Matches R (.next s) (.next u) := by
  intro t ht; cases ht; exact ⟨u, rfl, h⟩

theorem raise_matches (s : State) (c : Cause) (o : Result) : Matches R (raise s c) o :=
  fun t ht => absurd ht (raise_ne_next s t c)

theorem refused_matches (r : Refusal) (o : Result) : Matches R (.refused r) o := by
  intro t ht; cases ht

theorem trap_matches (c : Bool) (e : Cause) (hk : Matches R k k') :
    Matches R (if c then raise s e else k) (if c then raise u e else k') := by
  cases c
  case false => exact hk
  case true => exact raise_matches _ _ _

variable (hR : Indistinct R) (h : R s u)
include hR h

/-! ## Guards -/

theorem Indistinct.readX_eq (r : Reg) : readX u r = readX s r := readX_congr (hR.x h) r

theorem Indistinct.readF_eq (r : Reg) : readF u r = readF s r := readF_congr (hR.f h) r

theorem Indistinct.nextInstr (l : Option RegName) : R (nextInstr s l) (nextInstr u l) := by
  unfold Machine.nextInstr
  rw [hR.sequential h]
  exact hR.movePc h _ _ _

theorem Indistinct.notTaken : R (notTaken s) (notTaken u) := by
  unfold Machine.notTaken
  rw [hR.sequential h]
  exact hR.movePc h _ _ _

theorem Indistinct.linkAddr_eq : linkAddr u = linkAddr s := by simp [linkAddr, hR.params h, hR.pc h]

theorem reading_matches (reads : List RegName) (hk : Matches R k k') :
    Matches R (reading s reads k) (reading u reads k') := by
  intro t ht
  obtain ⟨hs, hkt⟩ := reading_next ht
  have hu : NoLoadedUse u reads := by rwa [NoLoadedUse, hR.params h, hR.ld h]
  rw [reading_of_noUse k' hu]
  exact hk t hkt

theorem usingCp1_matches (hk : Matches R k k') : Matches R (usingCp1 s k) (usingCp1 u k') := by
  intro t ht
  obtain ⟨hs, hkt⟩ := usingCp1_next ht
  rw [usingCp1_of_usable k' (by rwa [hR.params h])]
  exact hk t hkt

theorem transferring_matches (hk : Matches R k k') : Matches R (transferring s k) (transferring u k') := by
  unfold transferring
  rw [hR.slot h]
  split
  · exact refused_matches _ _
  · exact hk

/-! ## Effects -/

theorem setX_matches (rd : Reg) (v : Word) : Matches R (setX s rd v) (setX u rd v) :=
  .next (hR.nextInstr (hR.writeX h rd v) none)

theorem setF_matches (fd : Reg) (v : Word) : Matches R (setF s fd v) (setF u fd v) :=
  .next (hR.nextInstr (hR.writeF h fd v) none)

theorem setHiLo_matches (a b : Word) : Matches R (setHiLo s a b) (setHiLo u a b) :=
  .next (hR.nextInstr (hR.writeHiLo h a b) none)

theorem completeLoad_gpr_matches (rt : Reg) (v : Word) :
    Matches R (completeLoad (writeX s rt v) (.gpr rt)) (completeLoad (writeX u rt v) (.gpr rt)) :=
  .next (hR.nextInstr (hR.writeX h rt v) _)

theorem completeLoad_fpr_matches (ft : Reg) (v : Word) :
    Matches R (completeLoad (writeF s ft v) (.fpr ft)) (completeLoad (writeF u ft v) (.fpr ft)) :=
  .next (hR.nextInstr (hR.writeF h ft v) _)

theorem branchTo_matches (w : Word) : Matches R (.next (branchTo s w)) (.next (branchTo u w)) :=
  .next (hR.movePc h w true none)

theorem link_matches (rd : Reg) (w : Word) :
    Matches R (.next (branchTo (writeX s rd (linkAddr s)) w)) (.next (branchTo (writeX u rd (linkAddr u)) w)) := by
  rw [hR.linkAddr_eq h]
  exact branchTo_matches hR (hR.writeX h rd _) w

theorem branchIf_matches (reads : List RegName) (cond : Bool) (imm : Imm) :
    Matches R (branchIf s reads cond imm) (branchIf u reads cond imm) := by
  refine transferring_matches hR h (reading_matches hR h reads ?_)
  rw [hR.pc h]
  cases cond
  case false => exact .next (hR.notTaken h)
  case true => exact branchTo_matches hR h _

theorem load_matches (ea : Word) (n : Nat) {k k' : Nat → Result} (hk : ∀ v, Matches R (k v) (k' v)) :
    Matches R (load s ea n k) (load u ea n k') := by
  intro t ht
  obtain ⟨bs, ha, hm, hb, hkt⟩ := load_next ht
  have hu : load u ea n k' = k' (joinBytes s.params.endian bs) := by
    simp [load, memRead, hR.params h, hR.mem h, ha, hm, hb]
  rw [hu]
  exact hk _ t hkt

theorem loadX_matches (rt : Reg) (ea : Word) (n : Nat) (ext : Nat → Nat → Word) :
    Matches R (loadX s rt ea n ext) (loadX u rt ea n ext) :=
  load_matches hR h ea n fun v => completeLoad_gpr_matches hR h rt (ext n v)

theorem store_matches (ea : Word) (n : Nat) (v : Word) : Matches R (store s ea n v) (store u ea n v) := by
  intro t ht
  obtain ⟨ha, hm, hx, rfl⟩ := store_next ht
  refine ⟨nextInstr (storeBytes u ea n v) none, ?_, hR.nextInstr (hR.storeBytes h ea n v) none⟩
  simp [store, hR.params h, ha, hm, hx, complete]

/-! ## Instructions and steps -/

/-- An instruction that completes at one of two indistinct states completes at the other, in indistinct states; `mfhi`
and `mflo` must read the same value. -/
theorem exec_matches (i : Instr) (hhi : ∀ rd, i = .mfhi rd → u.hi = s.hi) (hlo : ∀ rd, i = .mflo rd → u.lo = s.lo) :
    Matches R (exec i s) (exec i u) := by
  have hx := hR.readX_eq h
  have hf := hR.readF_eq h
  cases i with
  | addu | subu | and | or | xor | nor | slt | sltu =>
    simp only [exec, execAddu, execSubu, execAnd, execOr, execXor, execNor, execSlt, execSltu, regOp, hx]
    exact reading_matches hR h _ (setX_matches hR h _ _)
  | addiu | slti | sltiu | andi | ori | xori =>
    simp only [exec, execAddiu, execSlti, execSltiu, execAndi, execOri, execXori, immOp, hx]
    exact reading_matches hR h _ (setX_matches hR h _ _)
  | sll | srl | sra | sllv | srlv | srav =>
    simp only [exec, execSll, execSrl, execSra, execSllv, execSrlv, execSrav, shiftConst, shiftVar, hx]
    exact reading_matches hR h _ (setX_matches hR h _ _)
  | lui => exact setX_matches hR h _ _
  | add | sub | addi =>
    simp only [exec, execAdd, execSub, execAddi, hx]
    exact reading_matches hR h _ (trap_matches _ _ (setX_matches hR h _ _))
  | mfhi rd =>
    simp only [exec, execMfhi, hhi rd rfl]
    exact setX_matches hR h _ _
  | mflo rd =>
    simp only [exec, execMflo, hlo rd rfl]
    exact setX_matches hR h _ _
  | mthi =>
    simp only [exec, execMthi, hx]
    exact reading_matches hR h _ (.next (hR.nextInstr (hR.writeHi h _) none))
  | mtlo =>
    simp only [exec, execMtlo, hx]
    exact reading_matches hR h _ (.next (hR.nextInstr (hR.writeLo h _) none))
  | mult | multu | div | divu =>
    simp only [exec, execMult, execMultu, execDiv, execDivu, hx]
    exact reading_matches hR h _ (setHiLo_matches hR h _ _)
  | bltz | bgez | beq | bne | blez | bgtz =>
    simp only [exec, execBltz, execBgez, execBeq, execBne, execBlez, execBgtz, hx]
    exact branchIf_matches hR h _ _ _
  | jr =>
    simp only [exec, execJr, hx]
    exact transferring_matches hR h (reading_matches hR h _ (branchTo_matches hR h _))
  | jalr =>
    simp only [exec, execJalr, hx]
    exact transferring_matches hR h (reading_matches hR h _ (link_matches hR h _ _))
  | j =>
    simp only [exec, execJ, hR.pc h]
    exact transferring_matches hR h (branchTo_matches hR h _)
  | jal =>
    simp only [exec, execJal, hR.pc h]
    exact transferring_matches hR h (link_matches hR h _ _)
  | lb | lh | lw | lbu | lhu =>
    simp only [exec, execLb, execLh, execLw, execLbu, execLhu, hx]
    exact reading_matches hR h _ (loadX_matches hR h _ _ _ _)
  | sb | sh | sw =>
    simp only [exec, execSb, execSh, execSw, hx]
    exact reading_matches hR h _ (store_matches hR h _ _ _)
  | lwc1 =>
    simp only [exec, execLwc1, hx]
    exact usingCp1_matches hR h (reading_matches hR h _
      (load_matches hR h _ _ fun _ => completeLoad_fpr_matches hR h _ _))
  | swc1 =>
    simp only [exec, execSwc1, hx, hf]
    exact usingCp1_matches hR h (reading_matches hR h _ (store_matches hR h _ _ _))
  | addS | subS | mulS | divS | movS | cvtSW | cvtWS =>
    simp only [exec, execAddS, execSubS, execMulS, execDivS, execMovS, execCvtSW, execCvtWS, fpBinary, fpUnary, hf,
      hR.params h]
    exact usingCp1_matches hR h (reading_matches hR h _ (setF_matches hR h _ _))
  | mfc1 =>
    simp only [exec, execMfc1, hf]
    exact usingCp1_matches hR h (reading_matches hR h _ (completeLoad_gpr_matches hR h _ _))
  | mtc1 =>
    simp only [exec, execMtc1, hx]
    exact usingCp1_matches hR h (reading_matches hR h _ (completeLoad_fpr_matches hR h _ _))
  | syscall | breakpoint => exact raise_matches _ _ _

theorem Indistinct.runs {i : Instr} (hr : Runs s i) : Runs u i := by
  unfold Runs fetchedWord Cp1Allows at hr ⊢
  simpa only [hR.params h, hR.pc h, hR.mem h] using hr

/-- A step that completes at one of two indistinct states with the same `HI` and `LO` completes at the other. -/
theorem step_matches (hhi : u.hi = s.hi) (hlo : u.lo = s.lo) : Matches R (step s) (step u) := by
  intro t ht
  obtain ⟨i, hf, he⟩ := step_next ht
  rw [step_of_runs (hR.runs h (fetchInstr_eq_run.1 hf))]
  exact exec_matches hR h i (fun _ _ => hhi) (fun _ _ => hlo) t he

end

/-! ## The two relations -/

/-- The states differ in `HI` and `LO` at most. -/
def AgreeButHiLo (s u : State) : Prop := ∃ a b, u = writeHiLo s a b

theorem indistinct_agreeButHiLo : Indistinct AgreeButHiLo where
  x := by rintro s _ ⟨a, b, rfl⟩; rfl
  f := by rintro s _ ⟨a, b, rfl⟩; rfl
  pc := by rintro s _ ⟨a, b, rfl⟩; rfl
  mem := by rintro s _ ⟨a, b, rfl⟩; rfl
  ld := by rintro s _ ⟨a, b, rfl⟩; rfl
  params := by rintro s _ ⟨a, b, rfl⟩; rfl
  slot := by rintro s _ ⟨a, b, rfl⟩; rfl
  sequential := by rintro s _ ⟨a, b, rfl⟩; rfl
  writeX := by
    rintro s _ ⟨a, b, rfl⟩ r v
    exact ⟨a, b, by unfold writeX; split <;> rfl⟩
  writeF := by rintro s _ ⟨a, b, rfl⟩ r v; exact ⟨a, b, rfl⟩
  writeHi := by rintro s _ ⟨a, b, rfl⟩ v; exact ⟨v, b, rfl⟩
  writeLo := by rintro s _ ⟨a, b, rfl⟩ v; exact ⟨a, v, rfl⟩
  writeHiLo := by rintro s _ ⟨a, b, rfl⟩ c d; exact ⟨c, d, rfl⟩
  storeBytes := by rintro s _ ⟨a, b, rfl⟩ c n v; exact ⟨a, b, rfl⟩
  movePc := by
    rintro s _ ⟨a, b, rfl⟩ n d l
    exact ⟨a, b, by cases hb : s.params.branchDelay <;> simp [movePc, nextLd, writeHiLo, hb]⟩

/-- `npc` and `ds` set from outside. -/
def setSlot (s : State) (n : Word) (d : Bool) : State := { s with npc := n, ds := d }

/-- Without `BRANCH_DELAY`, the second state is the first with `npc` and `ds` as given. -/
def DiffersInSlot (n : Word) (d : Bool) (s u : State) : Prop := s.params.branchDelay = false ∧ u = setSlot s n d

theorem indistinct_differsInSlot (n : Word) (d : Bool) : Indistinct (DiffersInSlot n d) where
  x := by rintro s _ ⟨-, rfl⟩; rfl
  f := by rintro s _ ⟨-, rfl⟩; rfl
  pc := by rintro s _ ⟨-, rfl⟩; rfl
  mem := by rintro s _ ⟨-, rfl⟩; rfl
  ld := by rintro s _ ⟨-, rfl⟩; rfl
  params := by rintro s _ ⟨-, rfl⟩; rfl
  slot := by rintro s _ ⟨hb, rfl⟩; simp [inDelaySlot, setSlot, hb]
  sequential := by rintro s _ ⟨hb, rfl⟩; simp [sequentialPc, setSlot, hb]
  writeX := by
    rintro s _ ⟨hb, rfl⟩ r v
    exact ⟨by simpa using hb, by unfold writeX; split <;> rfl⟩
  writeF := by rintro s _ ⟨hb, rfl⟩ r v; exact ⟨hb, rfl⟩
  writeHi := by rintro s _ ⟨hb, rfl⟩ v; exact ⟨hb, rfl⟩
  writeLo := by rintro s _ ⟨hb, rfl⟩ v; exact ⟨hb, rfl⟩
  writeHiLo := by rintro s _ ⟨hb, rfl⟩ a b; exact ⟨hb, rfl⟩
  storeBytes := by rintro s _ ⟨hb, rfl⟩ a k v; exact ⟨hb, rfl⟩
  movePc := by
    rintro s _ ⟨hb, rfl⟩ w b l
    exact ⟨by simpa using hb, by simp [movePc, setSlot, nextLd, hb]⟩

end Sys2Proof.Machine
end

section
/-! The statements of 10_state.md. -/

namespace Sys2Proof.Machine

/-- Settles O24: the inversion of `exec` names the six writers, and states that differ in `HI` and `LO` are indistinct
to every instruction that reads neither. -/
theorem hiLoReadAndWrittenOnlyThere : Obligations.HiLoReadAndWrittenOnlyThere := by
  unfold Obligations.HiLoReadAndWrittenOnlyThere
  refine ⟨fun i s t he hne => ?_, fun i s t h l he hread => ?_⟩
  · by_contra hw
    obtain ⟨hhi, hlo⟩ := (exec_completion he).hiLoSame hw
    exact hne.elim (· hhi) (· hlo)
  · have hsim := exec_matches indistinct_agreeButHiLo (s := s) ⟨h, l, rfl⟩ i (fun r e => absurd e (hread r).1)
      (fun r e => absurd e (hread r).2)
    obtain ⟨_, hu, a, b, rfl⟩ := hsim t he
    exact ⟨_, hu, rfl, rfl, rfl, rfl, rfl, rfl, rfl, rfl⟩

/-! ## The delay slot -/

/-- Every control transfer begins with the delay-slot check (10_state.md R32 (a)). -/
theorem exec_controlTransfer_in_slot {i : Instr} {s : State} (hct : isControlTransfer i = true) (hs : ¬NotInSlot s) :
    exec i s = .refused .controlTransferInDelaySlot := by
  cases i with
  | jr | jalr | j | jal | bltz | bgez | beq | bne | blez | bgtz => exact transferring_of_inSlot _ hs
  | _ => simp [isControlTransfer] at hct

/-- Settles O30: a completed instruction went on, fell through or jumped, a control transfer checks the slot first, and
without `BRANCH_DELAY` states that differ in `npc` and `ds` are indistinct to a step. -/
theorem delaySlotState : Obligations.DelaySlotState := by
  unfold Obligations.DelaySlotState
  refine ⟨fun i s t hb he => ?_, fun i s hct hb hd => ?_, fun s t n d hb hs => ?_⟩
  · have hc := exec_completion he
    cases hct : isControlTransfer i
    case false =>
      obtain ⟨l, -, hslot, -⟩ := hc.wentOn hct
      obtain ⟨hpc, hnpc, hds⟩ := hslot hb
      exact ⟨hpc, hds, fun _ => hnpc⟩
    case true =>
      rcases hc.transfers hct with ⟨-, hslot, -⟩ | ⟨w, -, -, hslot, -⟩
      all_goals
        obtain ⟨hpc, -, hds⟩ := hslot hb
        exact ⟨hpc, hds, by simp⟩
  · exact exec_controlTransfer_in_slot hct fun hn => hn ⟨hb, hd⟩
  · obtain ⟨_, hu, -, rfl⟩ := step_matches (indistinct_differsInSlot n d) (s := s) ⟨hb, rfl⟩ rfl rfl t hs
    exact hu

/-! ## Alignment of `pc` -/

theorem toNat_add_four_mod_four {a : Word} (h : a.toNat % 4 = 0) : (a + 4#32).toNat % 4 = 0 := by
  rw [BitVec.toNat_add]
  simp only [BitVec.toNat_ofNat]
  omega

theorem branchTarget_mod_four {pc : Word} (h : pc.toNat % 4 = 0) (imm : Imm) : (branchTarget pc imm).toNat % 4 = 0 := by
  have hoff : ((imm ++ 0#2).signExtend 32).toNat % 4 = 0 := by
    have hlow : (imm ++ 0#2).toNat = imm.toNat * 2 ^ 2 + 0 := toNat_append_add imm 0#2
    rw [BitVec.toNat_signExtend, BitVec.toNat_setWidth, hlow]
    split <;> omega
  have hnext := toNat_add_four_mod_four h
  unfold branchTarget
  rw [BitVec.toNat_add]
  omega

theorem jumpTarget_mod_four (pc : Word) (target : Target) : (jumpTarget pc target).toNat % 4 = 0 := by
  have hlow : (jumpTarget pc target).toNat = ((pc + 4#32).extractLsb' 28 4 ++ target).toNat * 2 ^ 2 + 0 :=
    toNat_append_add _ 0#2
  omega

/-- Only `jr` and `jalr` can go to an address that is no multiple of 4 (10_state.md R35). -/
theorem IsTarget.mod_four {i : Instr} {s : State} {w : Word} (hw : IsTarget i s w) (hpc : s.pc.toNat % 4 = 0)
    (hreg : ∀ rd rs, i = .jr rs ∨ i = .jalr rd rs → (readX s rs).toNat % 4 = 0) : w.toNat % 4 = 0 := by
  rcases hw with ⟨imm, rfl⟩ | ⟨target, rfl⟩ | ⟨rd, rs, hjump, rfl⟩
  · exact branchTarget_mod_four hpc imm
  · exact jumpTarget_mod_four s.pc target
  · exact hreg rd rs hjump

/-- Where a completed instruction goes: past the following instruction or to a target. -/
theorem Completion.next_pc {i : Instr} {s t : State} (h : Completion i s t) :
    (s.params.branchDelay = false → t.pc = s.pc + 4#32 ∨ IsTarget i s t.pc) ∧
    (s.params.branchDelay = true → t.pc = s.npc ∧ (t.npc = s.npc + 4#32 ∨ IsTarget i s t.npc)) := by
  cases hct : isControlTransfer i
  case false =>
    obtain ⟨l, hoff, hon, -⟩ := h.wentOn hct
    exact ⟨fun hb => .inl (hoff hb).1, fun hb => ⟨(hon hb).1, .inl (hon hb).2.1⟩⟩
  case true =>
    rcases h.transfers hct with ⟨hoff, hon, -⟩ | ⟨w, hw, hoff, hon, -⟩
    · exact ⟨fun hb => .inl (hoff hb).1, fun hb => ⟨(hon hb).1, .inl (hon hb).2.1⟩⟩
    · exact ⟨fun hb => .inr ((hoff hb).1 ▸ hw), fun hb => ⟨(hon hb).1, .inr ((hon hb).2.1 ▸ hw)⟩⟩

/-- Settles O32: the following address and every target are multiples of 4. -/
theorem programCounterStaysAligned : Obligations.ProgramCounterStaysAligned := by
  unfold Obligations.ProgramCounterStaysAligned
  intro i s t he hreg hpc
  obtain ⟨hoff, hon⟩ := (exec_completion he).next_pc
  refine ⟨fun hb => ?_, fun hb hnpc => ?_⟩
  · rcases hoff hb with hseq | hw
    · rw [hseq]; exact toNat_add_four_mod_four hpc
    · exact hw.mod_four hpc hreg
  · obtain ⟨hnext, hseq | hw⟩ := hon hb
    · rw [hnext, hseq]; exact ⟨hnpc, toNat_add_four_mod_four hnpc⟩
    · rw [hnext]; exact ⟨hnpc, hw.mod_four hpc hreg⟩

/-! ## Memory -/

theorem readBytes_eq_none {m : Memory} {as : List Word} (h : ∃ a ∈ as, Memory.read m a.toNat = none) :
    readBytes m as = none := by
  induction as with
  | nil => simp at h
  | cons b bs ih =>
    unfold readBytes
    cases hb : Memory.read m b.toNat with
    | none => rfl
    | some v =>
      obtain ⟨a, ha, hr⟩ := h
      have hmem : a ∈ bs := by
        rcases List.mem_cons.1 ha with rfl | hmem
        · simp [hr] at hb
        · exact hmem
      simp [ih ⟨a, hmem, hr⟩]

/-- A load whose guards let it act is `load` at its access. -/
theorem exec_load {i : Instr} {s : State} {a : DataAccess} (ha : dataAccess i = some a) (hl : a.store = false)
    (hm : MayAccess i s) : ∃ k, exec i s = load s (accessAddress s a) a.bytes k := by
  obtain ⟨hcp1, huse⟩ := hm
  cases i with
  | lb | lh | lw | lbu | lhu =>
    cases ha
    exact ⟨_, reading_of_noUse _ huse⟩
  | lwc1 =>
    cases ha
    exact ⟨_, (usingCp1_of_usable _ (hcp1 rfl)).trans (reading_of_noUse _ huse)⟩
  | sb | sh | sw | swc1 => cases ha; cases hl
  | _ => cases ha

/-- Settles O41: the access passes the checks before the read, and the read finds no value. -/
theorem loadWithoutValueFaults : Obligations.LoadWithoutValueFaults := by
  unfold Obligations.LoadWithoutValueFaults
  intro i s a ha hl hm hal hin hnone
  obtain ⟨k, he⟩ := exec_load ha hl hm
  obtain ⟨j, hj, hr⟩ := hnone
  have hread : readBytes s.mem (accessAddrs (accessAddress s a) a.bytes) = none :=
    readBytes_eq_none ⟨_, (mem_accessAddrs _ _ _).2 ⟨j, hj, rfl⟩, hr⟩
  simp [he, load, memRead, (aligned_iff _ _).2 hal, (allIn_iff _ _ _).2 hin, hread]

/-- Settles O44, from the inversion of `exec`. -/
theorem onlyStoresChangeMemory : Obligations.OnlyStoresChangeMemory := by
  unfold Obligations.OnlyStoresChangeMemory
  intro i s t he
  have hc := exec_completion he
  exact ⟨hc.memSame, fun a ha c hout => hc.read_outside_access ha hout⟩

/-! ## Register 0 -/

theorem writeX_zero (s : State) (v : Word) : writeX s 0 v = s := rfl

/-- The two outcomes are the same fault, or neither is a fault. -/
def SameFaults (o o' : Result) : Prop := ∀ f, o = .fault f ↔ o' = .fault f

theorem sameFaults_refl (o : Result) : SameFaults o o := fun _ => Iff.rfl

theorem sameFaults_next (t u : State) : SameFaults (.next t) (.next u) := by simp [SameFaults]

theorem reading_sameFaults (s : State) (rs : List RegName) {k k' : Result} (h : SameFaults k k') :
    SameFaults (reading s rs k) (reading s rs k') := by
  unfold reading
  split
  · exact sameFaults_refl _
  · exact h

theorem usingCp1_sameFaults (s : State) {k k' : Result} (h : SameFaults k k') :
    SameFaults (usingCp1 s k) (usingCp1 s k') := by
  unfold usingCp1
  split
  · exact h
  · exact sameFaults_refl _

theorem trap_sameFaults (c : Bool) (o : Result) {k k' : Result} (h : SameFaults k k') :
    SameFaults (if c then o else k) (if c then o else k') := by
  cases c
  case false => exact h
  case true => exact sameFaults_refl o

theorem load_sameFaults (s : State) (ea : Word) (n : Nat) {k k' : Nat → Result} (h : ∀ v, SameFaults (k v) (k' v)) :
    SameFaults (load s ea n k) (load s ea n k') := by
  unfold load memRead
  split
  · split
    · split
      · exact h _
      · exact sameFaults_refl _
    · exact sameFaults_refl _
  · exact sameFaults_refl _

/-- An overflow check does not look at the destination. -/
theorem trap_setX_sameFaults (s : State) (rs : List RegName) (c : Bool) (o : Result) (r r' : Reg) (v : Word) :
    SameFaults (reading s rs (if c then o else setX s r v)) (reading s rs (if c then o else setX s r' v)) :=
  reading_sameFaults s rs (trap_sameFaults c o (sameFaults_next _ _))

/-- A load does not look at the destination before it completes. -/
theorem loadX_sameFaults (s : State) (rs : List RegName) (r r' : Reg) (ea : Word) (n : Nat) (ext : Nat → Nat → Word) :
    SameFaults (reading s rs (loadX s r ea n ext)) (reading s rs (loadX s r' ea n ext)) :=
  reading_sameFaults s rs (load_sameFaults s ea n fun _ => sameFaults_next _ _)

/-- Settles O56: a destination is first looked at by the write, after which an instruction completes. -/
theorem registerZero : Obligations.RegisterZero := by
  unfold Obligations.RegisterZero
  refine ⟨readX_zero, writeX_zero, fun s rd rs rt imm f => ?_⟩
  have hmfc1 : SameFaults (exec (.mfc1 0 rs) s) (exec (.mfc1 rd rs) s) :=
    usingCp1_sameFaults s (reading_sameFaults s _ (sameFaults_next _ _))
  exact ⟨trap_setX_sameFaults s _ _ _ 0 rd _ f, trap_setX_sameFaults s _ _ _ 0 rd _ f,
    trap_setX_sameFaults s _ _ _ 0 rd _ f, loadX_sameFaults s _ 0 rd _ _ _ f, loadX_sameFaults s _ 0 rd _ _ _ f,
    loadX_sameFaults s _ 0 rd _ _ _ f, loadX_sameFaults s _ 0 rd _ _ _ f, loadX_sameFaults s _ 0 rd _ _ _ f, hmfc1 f⟩

/-! ## The step -/

/-- Settles O8: the hypotheses say that the step runs `i`. -/
theorem stepRunsDecodedInstruction : Obligations.StepRunsDecodedInstruction := by
  unfold Obligations.StepRunsDecodedInstruction
  intro s w i hw hcp1 hd
  exact step_of_runs ⟨w, hw, hcp1, hd⟩

end Sys2Proof.Machine
end

section
/-! Memory accesses: reading back what was written, and what a load, a store and a fetch do once the checks before them
have passed (20_memory.md R53 to R60, R68). -/

namespace Sys2Proof.Machine

/-! ## Bytes at rising addresses -/

theorem accessAddrs_getElem (a : Word) {n k : Nat} (hk : k < (accessAddrs a n).length) :
    (accessAddrs a n)[k] = a + BitVec.ofNat 32 k := by
  induction n generalizing a k with
  | zero => simp [accessAddrs] at hk
  | succ n ih =>
    cases k with
    | zero => simp [accessAddrs]
    | succ k =>
      have hk' : k < (accessAddrs (a + 1#32) n).length := by simpa [accessAddrs] using hk
      calc (accessAddrs a (n + 1))[k + 1] = a + 1#32 + BitVec.ofNat 32 k := ih (a + 1#32) hk'
        _ = a + BitVec.ofNat 32 (k + 1) := by rw [BitVec.add_assoc, Nat.add_comm k 1, BitVec.ofNat_add]

theorem readBytes_eq_some_iff {m : Memory} {as : List Word} {bs : List Byte} :
    readBytes m as = some bs ↔ as.map (fun a => Memory.read m a.toNat) = bs.map some := by
  induction as generalizing bs with
  | nil => cases bs <;> simp [readBytes]
  | cons a as ih =>
    cases bs with
    | nil =>
      cases hr : Memory.read m a.toNat <;> cases ht : readBytes m as <;> simp [readBytes, hr, ht]
    | cons b bs =>
      rw [List.map_cons, List.map_cons, List.cons.injEq, ← ih]
      cases hr : Memory.read m a.toNat <;> cases ht : readBytes m as <;> simp [readBytes, hr, ht]

/-- An access reads `bs` exactly when its `k`-th address holds the `k`-th byte of `bs`. -/
theorem readBytes_accessAddrs_iff {m : Memory} {a : Word} {n : Nat} {bs : List Byte} (hl : bs.length = n) :
    readBytes m (accessAddrs a n) = some bs ↔
      ∀ k (hk : k < bs.length), Memory.read m (a + BitVec.ofNat 32 k).toNat = some bs[k] := by
  subst hl
  rw [readBytes_eq_some_iff]
  constructor
  · intro h k hk
    have hget := congrArg (·[k]?) h
    simpa [accessAddrs_length, hk, accessAddrs_getElem] using hget
  · intro h
    refine List.ext_getElem (by simp [accessAddrs_length]) fun k h1 h2 => ?_
    simpa [accessAddrs_getElem] using h k (by simpa using h2)

/-! ## Bytes of a value -/

theorem leBytes_getElem {n v k : Nat} (hk : k < (leBytes n v).length) :
    (leBytes n v)[k] = BitVec.ofNat 8 (v / 2 ^ (8 * k)) := by
  induction n generalizing v k with
  | zero => simp [leBytes] at hk
  | succ n ih =>
    cases k with
    | zero => simp [leBytes]
    | succ k =>
      have hk' : k < (leBytes n (v / 256)).length := by simpa [leBytes] using hk
      calc (leBytes (n + 1) v)[k + 1] = BitVec.ofNat 8 (v / 256 / 2 ^ (8 * k)) := ih hk'
        _ = BitVec.ofNat 8 (v / 2 ^ (8 * (k + 1))) := by
          rw [Nat.div_div_eq_div_mul, Nat.mul_succ, Nat.pow_add, Nat.mul_comm (2 ^ (8 * k))]

/-- The bytes `MemWrite` stores are those `storedByte` names (20_memory.md R54). -/
theorem splitBytes_getElem (e : Endian) (v : Word) {n k : Nat} (hk : k < (splitBytes e n v.toNat).length) :
    (splitBytes e n v.toNat)[k] = storedByte e n v k := by
  cases e with
  | little => simp [splitBytes, storedByte, leBytes_getElem, BitVec.extractLsb', Nat.shiftRight_eq_div_pow]
  | big =>
    simp [splitBytes, storedByte, leBytes_getElem, leBytes_length, BitVec.extractLsb', Nat.shiftRight_eq_div_pow]

theorem joinBytes_two (b0 b1 : Byte) :
    joinBytes .little [b0, b1] = (b1 ++ b0).toNat ∧ joinBytes .big [b0, b1] = (b0 ++ b1).toNat := by
  simp only [joinBytes, leValue, List.reverse_cons, List.reverse_nil, List.nil_append, List.cons_append,
    toNat_append_add]
  omega

theorem joinBytes_four (b0 b1 b2 b3 : Byte) :
    joinBytes .little [b0, b1, b2, b3] = (b3 ++ b2 ++ b1 ++ b0).toNat ∧
      joinBytes .big [b0, b1, b2, b3] = (b0 ++ b1 ++ b2 ++ b3).toNat := by
  simp only [joinBytes, leValue, List.reverse_cons, List.reverse_nil, List.nil_append, List.cons_append,
    toNat_append_add]
  omega

/-- `zext_32` of the low `n` bytes of a word takes their bits (00_scope.md R8). -/
theorem zeroExtendBytes_toNat_mod (n : Nat) (v : Word) :
    zeroExtendBytes n (v.toNat % 256 ^ n) = (v.extractLsb' 0 (8 * n)).setWidth 32 := by
  apply BitVec.eq_of_toNat_eq
  have hpow : 256 ^ n = 2 ^ (8 * n) := by rw [Nat.pow_mul]
  simp [zeroExtendBytes, hpow]

theorem zeroExtendBytes_four (v : Word) : zeroExtendBytes 4 (v.toNat % 256 ^ 4) = v := by
  rw [zeroExtendBytes_toNat_mod]
  simp

/-! ## Memory after a store -/

section
variable {s t : State} {a ea v : Word} {n : Nat}

theorem readBytes_storeBytes (hn : n ≤ 4294967296) :
    readBytes (storeBytes s a n v).mem (accessAddrs a n) = some (splitBytes s.params.endian n v.toNat) :=
  readBytes_writeBytes _ _ _ (accessAddrs_nodup a n hn) (by rw [accessAddrs_length, splitBytes_length])

theorem read_storeBytes_inside (hn : n ≤ 4294967296) {k : Nat} (hk : k < n) :
    Memory.read (storeBytes s a n v).mem (a + BitVec.ofNat 32 k).toNat = some (storedByte s.params.endian n v k) := by
  have hlen := splitBytes_length s.params.endian n v.toNat
  rw [(readBytes_accessAddrs_iff hlen).1 (readBytes_storeBytes hn) k (hlen.symm ▸ hk), splitBytes_getElem]

theorem read_storeBytes_outside {c : Nat} (hc : ∀ k, k < n → c ≠ (a + BitVec.ofNat 32 k).toNat) :
    Memory.read (storeBytes s a n v).mem c = Memory.read s.mem c := by
  refine read_writeBytes_other _ _ _ _ fun x hx => ?_
  obtain ⟨k, hk, rfl⟩ := (mem_accessAddrs _ _ _).1 hx
  exact hc k hk

/-- `MemRead` after `MemWrite` of the same address and width (20_memory.md R54). -/
theorem memRead_storeBytes (hn : n ≤ 4294967296) :
    (readBytes (storeBytes s a n v).mem (accessAddrs a n)).map (joinBytes s.params.endian) =
      some (v.toNat % 256 ^ n) := by
  rw [readBytes_storeBytes hn, Option.map_some, joinBytes_splitBytes]

/-- Part of a stored value: the `m` bytes from byte `j` on. -/
theorem readBytes_storeBytes_part (hn : n ≤ 4294967296) {j m : Nat} (hj : j + m ≤ n) :
    readBytes (storeBytes s a n v).mem (accessAddrs (a + BitVec.ofNat 32 j) m) =
      some ((List.range m).map fun k => storedByte s.params.endian n v (j + k)) := by
  refine (readBytes_accessAddrs_iff (by simp)).2 fun k hk => ?_
  rw [List.length_map, List.length_range] at hk
  have hsum : a + BitVec.ofNat 32 j + BitVec.ofNat 32 k = a + BitVec.ofNat 32 (j + k) := by
    rw [BitVec.add_assoc, BitVec.ofNat_add]
  rw [hsum, read_storeBytes_inside hn (by omega)]
  simp

/-! ## A load after a store -/

/-- After an instruction that loads no register, no read is refused (70_reset_and_hazards.md R256). -/
theorem noLoadedUse_nextInstr_none (s : State) (reads : List RegName) : NoLoadedUse (nextInstr s none) reads := by
  intro _ r _
  simp [nextInstr, nextLd_eq]

/-- A load of the address and width just stored passes its checks and reads the stored value back. -/
theorem reading_load_of_store_next (hn : n ≤ 4294967296) (h : store s ea n v = .next t) (reads : List RegName)
    (k : Nat → Result) : reading t reads (load t ea n k) = k (v.toNat % 256 ^ n) := by
  obtain ⟨hal, hin, -, rfl⟩ := store_next h
  rw [reading_of_noUse _ (noLoadedUse_nextInstr_none _ _)]
  simp [load, memRead, hal, hin, -storeBytes_mem, readBytes_storeBytes hn, joinBytes_splitBytes]

theorem readX_of_store_next (h : store s ea n v = .next t) (r : Reg) : readX t r = readX s r := by
  obtain ⟨-, -, -, rfl⟩ := store_next h
  simp

/-- A zero-extending load of the operand and width just stored. -/
theorem loadX_of_store_next {rs : Reg} {imm : Imm} (hn : n ≤ 4294967296)
    (h : store s (effectiveAddress (readX s rs) imm) n v = .next t) (rd : Reg) (reads : List RegName) :
    reading t reads (loadX t rd (effectiveAddress (readX t rs) imm) n zeroExtendBytes) =
      completeLoad (writeX t rd (zeroExtendBytes n (v.toNat % 256 ^ n))) (.gpr rd) := by
  rw [readX_of_store_next h]
  exact reading_load_of_store_next hn h reads _

theorem params_of_store_next (h : store s ea n v = .next t) : t.params = s.params := by
  obtain ⟨-, -, -, rfl⟩ := store_next h
  simp

end

/-! ## The guards of a data access -/

section
variable {i : Instr} {s t : State} {a : DataAccess}

theorem reading_of_loadedUse {reads : List RegName} (k : Result) (h : ¬NoLoadedUse s reads) :
    ∃ r, reading s reads k = .refused r := by
  rcases reading_cases s reads k with ⟨hn, -⟩ | ⟨r, -, -, -, he⟩
  · exact absurd hn h
  · exact ⟨_, he⟩

/-- A memory instruction whose guards do not let it act stops at them. -/
theorem exec_of_not_mayAccess (ha : dataAccess i = some a) (hm : ¬MayAccess i s) :
    exec i s = raise s (.coprocessorUnusable 1) ∨ ∃ r, exec i s = .refused r := by
  cases i with
  | lb | lh | lw | lbu | lhu | sb | sh | sw => exact .inr (reading_of_loadedUse _ fun hu => hm ⟨nofun, hu⟩)
  | lwc1 | swc1 =>
    cases hc : s.params.cp1Usable
    case false => exact .inl (usingCp1_of_unusable _ hc)
    case true =>
      obtain ⟨r, he⟩ := reading_of_loadedUse _ fun hu => hm ⟨fun _ => hc, hu⟩
      exact .inr ⟨r, (usingCp1_of_usable _ hc).trans he⟩
  | _ => cases ha

/-- A memory instruction whose guards let it act is `load` or `store` at its access; once its bytes are read, a load
completes, in the state `g` of their value. -/
theorem exec_access (ha : dataAccess i = some a) (hm : MayAccess i s) :
    (a.store = false ∧ ∃ g : Nat → State, exec i s = load s (accessAddress s a) a.bytes fun v => .next (g v)) ∨
    (a.store = true ∧ ∃ v, exec i s = store s (accessAddress s a) a.bytes v) := by
  obtain ⟨hcp1, huse⟩ := hm
  cases i with
  | lb | lh | lw | lbu | lhu =>
    cases ha
    exact .inl ⟨rfl, _, reading_of_noUse _ huse⟩
  | lwc1 =>
    cases ha
    exact .inl ⟨rfl, _, (usingCp1_of_usable _ (hcp1 rfl)).trans (reading_of_noUse _ huse)⟩
  | sb | sh | sw =>
    cases ha
    exact .inr ⟨rfl, _, reading_of_noUse _ huse⟩
  | swc1 =>
    cases ha
    exact .inr ⟨rfl, _, (usingCp1_of_usable _ (hcp1 rfl)).trans (reading_of_noUse _ huse)⟩
  | _ => cases ha

theorem exec_store (ha : dataAccess i = some a) (hs : a.store = true) (hm : MayAccess i s) :
    ∃ v, exec i s = store s (accessAddress s a) a.bytes v := by
  rcases exec_access ha hm with ⟨hl, -⟩ | ⟨-, hv⟩
  · simp [hs] at hl
  · exact hv

theorem mayAccess_of_exec_next (ha : dataAccess i = some a) (h : exec i s = .next t) : MayAccess i s := by
  by_contra hm
  rcases exec_of_not_mayAccess ha hm with he | ⟨r, he⟩
  · exact raise_ne_next s t _ (he.symm.trans h)
  · cases he.symm.trans h

/-- A store that completes had its bytes in `MEM_ALLOC` and none of them in `TEXT` (20_memory.md R60, R68). -/
theorem exec_store_next (ha : dataAccess i = some a) (hs : a.store = true) (h : exec i s = .next t) :
    AllBytesIn s.params.memAlloc (accessAddress s a) a.bytes ∧ NoByteIn s.params.text (accessAddress s a) a.bytes := by
  obtain ⟨v, he⟩ := exec_store ha hs (mayAccess_of_exec_next ha h)
  obtain ⟨-, hin, hout, -⟩ := store_next (he.symm.trans h)
  exact ⟨(allIn_iff _ _ _).1 hin, (someIn_eq_false_iff _ _ _).1 hout⟩

/-! ## The stops of a data access and of a fetch -/

theorem exec_of_misaligned (ha : dataAccess i = some a) (hm : MayAccess i s)
    (hal : (accessAddress s a).toNat % a.bytes ≠ 0) :
    exec i s = raise s
      (if a.store = true then .addressErrorStore (accessAddress s a) else .addressErrorLoad (accessAddress s a)) := by
  have hoff : aligned (accessAddress s a) a.bytes = false := by simpa [aligned] using hal
  rcases exec_access ha hm with ⟨hs, g, he⟩ | ⟨hs, v, he⟩
  · simp [he, hs, load, hoff]
  · simp [he, hs, store, hoff]

theorem exec_of_unallocated (ha : dataAccess i = some a) (hm : MayAccess i s)
    (hal : (accessAddress s a).toNat % a.bytes = 0) (hin : ¬AllBytesIn s.params.memAlloc (accessAddress s a) a.bytes) :
    exec i s = raise s (.unallocatedAccess (accessAddress s a)) := by
  rw [← aligned_iff] at hal
  rw [← allIn_iff, Bool.not_eq_true] at hin
  rcases exec_access ha hm with ⟨-, g, he⟩ | ⟨-, v, he⟩
  · simp [he, load, memRead, hal, hin]
  · simp [he, store, hal, hin]

/-- An aligned access completes, is refused, or stops for another reason than its alignment. -/
theorem exec_of_aligned (ha : dataAccess i = some a) (hal : (accessAddress s a).toNat % a.bytes = 0) :
    (∃ t, exec i s = .next t) ∨ (∃ r, exec i s = .refused r) ∨
    (∃ c, (∀ ea, c ≠ .addressErrorLoad ea ∧ c ≠ .addressErrorStore ea) ∧ exec i s = raise s c) ∨
    exec i s = .fault (.noValue (accessAddress s a)) := by
  rw [← aligned_iff] at hal
  by_cases hm : MayAccess i s
  case neg =>
    rcases exec_of_not_mayAccess ha hm with he | he
    · exact .inr (.inr (.inl ⟨_, by simp, he⟩))
    · exact .inr (.inl he)
  case pos =>
    rcases exec_access ha hm with ⟨-, g, he⟩ | ⟨-, v, he⟩
    · rcases load_cases s (accessAddress s a) a.bytes (fun v => .next (g v)) with
        ⟨hno, -⟩ | ⟨-, -, hk⟩ | ⟨-, -, -, hk⟩ | ⟨bs, -, -, -, hk⟩
      · simp [hal] at hno
      · exact .inr (.inr (.inl ⟨_, by simp, he.trans hk⟩))
      · exact .inr (.inr (.inr (he.trans hk)))
      · exact .inl ⟨_, he.trans hk⟩
    · rcases store_cases s (accessAddress s a) a.bytes v with ⟨hno, -⟩ | ⟨-, -, hk⟩ | ⟨-, -, -, hk⟩ | ⟨-, -, -, hk⟩
      · simp [hal] at hno
      · exact .inr (.inr (.inl ⟨_, by simp, he.trans hk⟩))
      · exact .inr (.inl ⟨_, he.trans hk⟩)
      · exact .inl ⟨_, he.trans hk⟩

theorem step_of_unallocated_pc (hal : s.pc.toNat % 4 = 0) (hin : ¬AllBytesIn s.params.memAlloc s.pc 4) :
    step s = raise s (.unallocatedAccess s.pc) := by
  rw [← aligned_iff] at hal
  rw [← allIn_iff, Bool.not_eq_true] at hin
  simp [step, fetchInstr, hal, hin]

theorem step_of_pc_outside_text (hal : s.pc.toNat % 4 = 0) (hin : AllBytesIn s.params.memAlloc s.pc 4)
    (htext : ¬AllBytesIn s.params.text s.pc 4) : step s = .refused (.fetchOutsideText s.pc) := by
  rw [← aligned_iff] at hal
  rw [← allIn_iff] at hin
  rw [← allIn_iff, Bool.not_eq_true] at htext
  simp [step, fetchInstr, hal, hin, htext]

/-! ## What every completion keeps -/

theorem Completion.params_eq (h : Completion i s t) : t.params = s.params := by
  cases h with
  | gpr | fpr | hiLo | stored | notTaken | taken => simp

theorem Completion.mem_wf (h : Completion i s t) (hw : Memory.wf s.mem = true) : Memory.wf t.mem = true := by
  cases h with
  | stored a v => simpa using storeBytes_wf s (accessAddress s a) a.bytes v hw
  | gpr | fpr | hiLo | notTaken | taken => simpa using hw

/-- No write reaches the stored element of register 0. -/
@[simp] theorem writeX_x_zero (s : State) (r : Reg) (v : Word) : (writeX s r v).x[0] = s.x[0] := by
  unfold writeX
  split
  next => rfl
  next hr =>
    have hne : r.toNat ≠ 0 := fun h0 => hr (BitVec.eq_of_toNat_eq h0)
    simp [hne]

theorem Completion.x_zero (h : Completion i s t) : t.x[0] = s.x[0] := by
  cases h with
  | gpr | fpr | hiLo | stored | notTaken | taken => simp

theorem nextLd_congr {u : State} (h : u.params = s.params) (l : Option RegName) : nextLd u l = nextLd s l := by
  simp [nextLd, h]

/-- `ld` after a completed instruction is what `nextLd` makes of some register. -/
theorem Completion.ld_eq (h : Completion i s t) : ∃ l, t.ld = nextLd s l := by
  cases h with
  | gpr | fpr | hiLo | stored | notTaken | taken => exact ⟨_, (movePc_ld ..).trans (nextLd_congr (by simp) _)⟩

theorem nextLd_ne_x0 (s : State) (l : Option RegName) : nextLd s l ≠ some (.gpr 0#5) := by
  rw [nextLd_eq]
  split_ifs <;> simp_all

theorem nextLd_of_no_loadDelay (l : Option RegName) (h : s.params.loadDelay = false) : nextLd s l = none := by
  simp [nextLd, h]

end

end Sys2Proof.Machine
end

section
/-! The statements of 20_memory.md. -/

namespace Sys2Proof.Machine

/-- Settles O57: each field of the invariant is kept by every completion of an instruction. -/
theorem stepKeepsInvariant : Obligations.StepKeepsInvariant := by
  unfold Obligations.StepKeepsInvariant
  intro s t hinv hstep
  obtain ⟨i, -, he⟩ := step_next hstep
  have hc := exec_completion he
  obtain ⟨l, hld⟩ := hc.ld_eq
  exact {
    mem_wf := hc.mem_wf hinv.mem_wf
    x_zero := hc.x_zero.trans hinv.x_zero
    ld_not_x0 := hld ▸ nextLd_ne_x0 s l
    ld_off := fun hd => hld.trans (nextLd_of_no_loadDelay l (hc.params_eq ▸ hd)) }

/-- Settles O59: a store changes only bytes of its access, and it completes only when these lie in `MEM_ALLOC` and
outside `TEXT`. -/
theorem programNeverChanges : Obligations.ProgramNeverChanges := by
  unfold Obligations.ProgramNeverChanges
  intro s t hstep
  obtain ⟨i, -, he⟩ := step_next hstep
  have hc := exec_completion he
  refine ⟨hc.params_eq, fun c hprotected => ?_⟩
  by_cases hstore : ∃ a, dataAccess i = some a ∧ a.store = true
  · obtain ⟨a, ha, hs⟩ := hstore
    obtain ⟨halloc, htext⟩ := exec_store_next ha hs he
    refine hc.read_outside_access ha fun k hk hck => ?_
    rw [hck, htext k hk, halloc k hk] at hprotected
    simp at hprotected
  · exact hc.memSame (fun a ha => Bool.eq_false_iff.2 fun hs => hstore ⟨a, ha, hs⟩) c

/-- Settles O9: the four bytes are read in the order of their addresses and joined by `ENDIAN`. -/
theorem fetchByteOrder : Obligations.FetchByteOrder := by
  unfold Obligations.FetchByteOrder
  intro s b0 b1 b2 b3 hal hin htext h0 h1 h2 h3
  have hread : readBytes s.mem (accessAddrs s.pc 4) = some [b0, b1, b2, b3] := by
    have hb1 : s.pc + 1#32 + 1#32 = s.pc + 2#32 := by rw [BitVec.add_assoc]; rfl
    have hb2 : s.pc + 2#32 + 1#32 = s.pc + 3#32 := by rw [BitVec.add_assoc]; rfl
    simp only [accessAddrs, readBytes, hb1, hb2, h0, h1, h2, h3]
  have hword : fetchedWord s = some (wordOfBytes s.params.endian [b0, b1, b2, b3]) := by
    simp [fetchedWord, (aligned_iff _ _).2 hal, (allIn_iff _ _ _).2 hin, (allIn_iff _ _ _).2 htext, hread]
  obtain ⟨hlittle, hbig⟩ := joinBytes_four b0 b1 b2 b3
  refine ⟨fun he => ?_, fun he => ?_⟩
  · rw [hword, he, wordOfBytes, hbig, BitVec.ofNat_toNat, BitVec.setWidth_eq]
  · rw [hword, he, wordOfBytes, hlittle, BitVec.ofNat_toNat, BitVec.setWidth_eq]

/-- Settles O38: alignment is the first check of an access that its guards let act, and no other check reports it. -/
theorem misalignedDataAccess : Obligations.MisalignedDataAccess := by
  unfold Obligations.MisalignedDataAccess
  refine ⟨fun rt rs imm => by simp [dataAccess], fun i s a ha hm hal => ?_, fun i s t a epc ea d ha hal => ?_⟩
  · unfold Stops
    rw [exec_of_misaligned ha hm hal]
    exact raise_stopsWith s _
  · rcases exec_of_aligned ha hal with ⟨u, he⟩ | ⟨r, he⟩ | ⟨c, hc, he⟩ | he
    · simp [he]
    · simp [he]
    · simp [he, raise, hc ea]
    · simp [he]

/-- Settles O39: the allocation check follows the alignment check in a data access and in a fetch. -/
theorem unallocatedAccessRaises : Obligations.UnallocatedAccessRaises := by
  unfold Obligations.UnallocatedAccessRaises
  refine ⟨fun i s a ha hm hal hin => ?_, fun s hal hin => ?_⟩
  · unfold Stops
    rw [exec_of_unallocated ha hm hal hin]
    exact raise_stopsWith s _
  · rw [step_of_unallocated_pc hal hin]
    exact raise_stopsWith s _

/-- Settles O40: the `TEXT` check follows the allocation check in a store and in a fetch. -/
theorem textIsReadOnly : Obligations.TextIsReadOnly := by
  unfold Obligations.TextIsReadOnly
  refine ⟨fun i s a ha hs hm hal hin htext => ?_, fun s => step_of_pc_outside_text⟩
  obtain ⟨v, he⟩ := exec_store ha hs hm
  rw [← aligned_iff] at hal
  rw [← allIn_iff] at hin
  rw [← someIn_eq_false_iff, Bool.not_eq_false] at htext
  simp [he, store, hal, hin, htext]

/-- Settles O42, from the rules about the memory after a store; the mixed widths are two parts of one stored word. -/
theorem memoryByteOrder : Obligations.MemoryByteOrder := by
  unfold Obligations.MemoryByteOrder
  refine ⟨fun b0 b1 b2 b3 => ?_, ?_, ?_⟩
  · have hone : ∀ e, joinBytes e [b0] = b0.toNat := fun e => by cases e <;> simp [joinBytes, leValue]
    exact ⟨hone _, hone _, (joinBytes_two b0 b1).1, (joinBytes_two b0 b1).2, joinBytes_four b0 b1 b2 b3⟩
  · rintro s _ a v n hmem rfl
    have hn : n ≤ 4294967296 := by
      simp only [List.mem_cons, List.not_mem_nil, or_false] at hmem
      omega
    refine ⟨fun k hk => read_storeBytes_inside hn hk, fun c hc => read_storeBytes_outside hc, ?_⟩
    rw [memRead_storeBytes hn, Nat.pow_mul]
  · rintro s _ a rfl
    have hlow := readBytes_storeBytes_part (s := s) (a := a) (v := 0x11223344#32) (n := 4) (by omega)
      (j := 0) (m := 1) (by omega)
    have hhigh := readBytes_storeBytes_part (s := s) (a := a) (v := 0x11223344#32) (n := 4) (by omega)
      (j := 2) (m := 2) (by omega)
    rw [BitVec.add_zero] at hlow
    refine ⟨fun he => ?_, fun he => ?_⟩
    all_goals
      rw [hlow, hhigh, he]
      decide

/-- Settles O43: a load of what was just stored reads the stored bytes back, and its extension keeps their value. -/
theorem loadAfterStore : Obligations.LoadAfterStore := by
  unfold Obligations.LoadAfterStore
  intro s t rt rs rd imm
  refine ⟨fun h => ?_, fun h => ?_, fun h => ?_, fun h => ?_⟩
  · rw [← zeroExtendBytes_four (readX s rt)]
    exact completeLoad_writesX (loadX_of_store_next (by decide) (reading_next h).2 rd _)
  · rw [← zeroExtendBytes_toNat_mod 2]
    exact completeLoad_writesX (loadX_of_store_next (by decide) (reading_next h).2 rd _)
  · rw [← zeroExtendBytes_toNat_mod 1]
    exact completeLoad_writesX (loadX_of_store_next (by decide) (reading_next h).2 rd _)
  · obtain ⟨husable, hreading⟩ := usingCp1_next h
    have hstore := (reading_next hreading).2
    have hload : exec (.lwc1 rd imm rs) t = completeLoad (writeF t rd (readF s rt)) (.fpr rd) := by
      rw [exec, execLwc1, usingCp1_of_usable _ ((params_of_store_next hstore).symm ▸ husable),
        readX_of_store_next hstore, reading_load_of_store_next (by decide) hstore, zeroExtendBytes_four]
    exact completeLoad_writesF hload

end Sys2Proof.Machine
end

section
/-! The decoder by fields: a word is made of its fields, a bitwise operation acts on each of them, and a word selects the
row of `i` exactly when it is the word of `i` outside the unused fields of `i` (30_encoding.md R100 to R102). -/

namespace Sys2Proof

/-! ## Fields of a bitwise combination -/

section
variable (v w : Word)

@[simp] theorem opcodeOf_or : opcodeOf (v ||| w) = opcodeOf v ||| opcodeOf w := BitVec.extractLsb'_or
@[simp] theorem rsOf_or : rsOf (v ||| w) = rsOf v ||| rsOf w := BitVec.extractLsb'_or
@[simp] theorem rtOf_or : rtOf (v ||| w) = rtOf v ||| rtOf w := BitVec.extractLsb'_or
@[simp] theorem rdOf_or : rdOf (v ||| w) = rdOf v ||| rdOf w := BitVec.extractLsb'_or
@[simp] theorem saOf_or : saOf (v ||| w) = saOf v ||| saOf w := BitVec.extractLsb'_or
@[simp] theorem functOf_or : functOf (v ||| w) = functOf v ||| functOf w := BitVec.extractLsb'_or
@[simp] theorem immOf_or : immOf (v ||| w) = immOf v ||| immOf w := BitVec.extractLsb'_or

@[simp] theorem opcodeOf_and : opcodeOf (v &&& w) = opcodeOf v &&& opcodeOf w := BitVec.extractLsb'_and
@[simp] theorem rsOf_and : rsOf (v &&& w) = rsOf v &&& rsOf w := BitVec.extractLsb'_and
@[simp] theorem rtOf_and : rtOf (v &&& w) = rtOf v &&& rtOf w := BitVec.extractLsb'_and
@[simp] theorem rdOf_and : rdOf (v &&& w) = rdOf v &&& rdOf w := BitVec.extractLsb'_and
@[simp] theorem saOf_and : saOf (v &&& w) = saOf v &&& saOf w := BitVec.extractLsb'_and
@[simp] theorem functOf_and : functOf (v &&& w) = functOf v &&& functOf w := BitVec.extractLsb'_and
@[simp] theorem immOf_and : immOf (v &&& w) = immOf v &&& immOf w := BitVec.extractLsb'_and

end

/-- The mask of a whole five-bit field keeps the field. -/
@[simp] theorem and_field_mask (r : Reg) : r &&& 0x1F#5 = r := BitVec.and_allOnes

/-! ## Words with equal fields -/

section
variable {v w : Word} (hop : opcodeOf v = opcodeOf w)
include hop

theorem word_ext_R (hrs : rsOf v = rsOf w) (hrt : rtOf v = rtOf w) (hrd : rdOf v = rdOf w) (hsa : saOf v = saOf w)
    (hfunct : functOf v = functOf w) : v = w := by
  simp only [← BitVec.toNat_inj, opcodeOf_toNat, rsOf_toNat, rtOf_toNat, rdOf_toNat, saOf_toNat, functOf_toNat] at *
  omega

theorem word_ext_I (hrs : rsOf v = rsOf w) (hrt : rtOf v = rtOf w) (himm : immOf v = immOf w) : v = w := by
  rw [word_eq_encodeI v, word_eq_encodeI w, hop, hrs, hrt, himm]

theorem word_ext_J (htarget : targetOf v = targetOf w) : v = w := by
  rw [word_eq_encodeJ v, word_eq_encodeJ w, hop, htarget]

end

/-! ## From an instruction to the row of its word -/

theorem encode_and_unusedMask (i : Instr) : encode i &&& unusedMask i = 0#32 := by
  cases i
  case lui => simp [encode, unusedMask, encodeI_and]; rfl
  all_goals simp [encode, unusedMask, encodeR_and, encodeCop1_and_encodeR, encodeR_eq_zero]

/-- No bit of an unused field takes part in the choice of a row or in an operand. -/
theorem selectRow_encode_or (i : Instr) (m : Word) : selectRow (encode i ||| (m &&& unusedMask i)) = some i := by
  cases i
  all_goals simp [encode, unusedMask, selectRow, decodeRType, decodeCop1]

/-! ## From the row of a word to the word of the instruction -/

/-- What a map gives for `w`, if anything, is an instruction whose word is `w` outside its unused fields. -/
def RowFits (w : Word) (o : Option Instr) : Prop := ∀ i, o = some i → w = encode i ||| (w &&& unusedMask i)

theorem rowFits_none (w : Word) : RowFits w none := by simp [RowFits]

theorem rowFits_some {w : Word} {i : Instr} : RowFits w (some i) ↔ w = encode i ||| (w &&& unusedMask i) := by
  simp [RowFits]

theorem RowFits.ite {w : Word} {c : Prop} [Decidable c] {o o' : Option Instr} (h' : RowFits w o')
    (h : c → RowFits w o) : RowFits w (if c then o else o') := by
  split
  next hc => exact h hc
  next => exact h'

theorem decodeRType_fits {w : Word} (hop : opcodeOf w = 0x00#6) : RowFits w (decodeRType w) := by
  simp only [decodeRType]
  repeat' refine RowFits.ite ?_ fun hfunct => ?_
  any_goals exact rowFits_none w
  all_goals
    rw [rowFits_some]
    apply word_ext_R <;> simp [encode, unusedMask, hop, hfunct]

theorem decodeCop1_fits {w : Word} (hop : opcodeOf w = 0x11#6) : RowFits w (decodeCop1 w) := by
  simp only [decodeCop1]
  repeat' refine RowFits.ite ?_ fun hsel => ?_
  any_goals exact rowFits_none w
  all_goals
    rw [rowFits_some]
    apply word_ext_R <;> simp [encode, unusedMask, *]

theorem selectRow_fits (w : Word) : RowFits w (selectRow w) := by
  simp only [selectRow]
  refine .ite ?_ decodeRType_fits
  refine .ite ?_ fun hop => .ite (.ite (rowFits_none w) fun hrt => ?bgez) fun hrt => ?bltz
  refine .ite (.ite ?_ fun hop => ?jal) fun hop => ?j
  refine .ite (.ite ?_ fun hop => ?bne) fun hop => ?beq
  refine .ite ?_ fun hop => .ite (rowFits_none w) fun hrt => ?blez
  refine .ite ?_ fun hop => .ite (rowFits_none w) fun hrt => ?bgtz
  iterate 8 refine .ite ?_ fun hop => ?_
  refine .ite ?_ decodeCop1_fits
  iterate 10 refine .ite ?_ fun hop => ?_
  exact rowFits_none w
  all_goals rw [rowFits_some]
  case j | jal => apply word_ext_J <;> simp [encode, unusedMask, hop]
  all_goals apply word_ext_I <;> simp [encode, unusedMask, *]

theorem selectRow_eq_some {w : Word} {i : Instr} : selectRow w = some i ↔ w = encode i ||| (w &&& unusedMask i) :=
  ⟨selectRow_fits w i, fun h => h ▸ selectRow_encode_or i w⟩

/-- Outside the unused fields nothing is ignored: a word without a bit in them is the word of its row. -/
theorem eq_encode_of_selectRow {w : Word} {i : Instr} (hsel : selectRow w = some i)
    (hz : w &&& unusedMask i = 0#32) : w = encode i := by
  have h := selectRow_eq_some.1 hsel
  rwa [hz, BitVec.or_zero] at h

/-! ## Words without a row -/

open Machine

theorem ite_some_eq_none (c : Prop) [Decidable c] (i : Instr) (o : Option Instr) :
    (if c then some i else o) = none ↔ ¬c ∧ o = none := by
  split <;> simp [*]

theorem decodeRType_eq_none (w : Word) : decodeRType w = none ↔ functOf w ∈ reservedFuncts := by
  simp only [decodeRType, ite_some_eq_none, and_true]
  generalize functOf w = funct
  revert funct
  decide

theorem decodeCop1_eq_none (w : Word) : decodeCop1 w = none ↔ (rsOf w, functOf w) ∉ cop1Pairs := by
  by_cases h10 : rsOf w = 0x10#5
  · simp [decodeCop1, cop1Pairs, h10, ite_some_eq_none]
  by_cases h14 : rsOf w = 0x14#5
  · simp [decodeCop1, cop1Pairs, h14]
  by_cases h00 : rsOf w = 0x00#5
  · simp [decodeCop1, cop1Pairs, h00]
  by_cases h04 : rsOf w = 0x04#5
  · simp [decodeCop1, cop1Pairs, h04]
  simp [decodeCop1, cop1Pairs, h10, h14, h00, h04]

/-- The opcodes that alone select a row (30_encoding.md R90). -/
def plainOpcodes : List (BitVec 6) :=
  [0x02#6, 0x03#6, 0x04#6, 0x05#6, 0x08#6, 0x09#6, 0x0A#6, 0x0B#6, 0x0C#6, 0x0D#6, 0x0E#6, 0x0F#6] ++
  [0x20#6, 0x21#6, 0x23#6, 0x24#6, 0x25#6, 0x28#6, 0x29#6, 0x2B#6, 0x31#6, 0x39#6]

/-- An opcode selects with another field, selects alone, or is in no table. -/
theorem opcode_cases : ∀ op : BitVec 6, op ∈ [0x00#6, 0x01#6, 0x06#6, 0x07#6, 0x11#6] ∨ op ∈ plainOpcodes ∨
    op ∈ [0x10#6, 0x12#6, 0x13#6] ++ reservedOpcodes := by
  decide

theorem selectRow_of_plain {w : Word} (hop : opcodeOf w ∈ plainOpcodes) :
    selectRow w ≠ none ∧ ¬ReservedSelector w := by
  generalize hw : opcodeOf w = op at hop
  fin_cases hop
  all_goals simp [hw, selectRow, ReservedSelector, reservedOpcodes]

theorem selectRow_of_unlisted {w : Word} (hop : opcodeOf w ∈ [0x10#6, 0x12#6, 0x13#6] ++ reservedOpcodes) :
    selectRow w = none := by
  generalize hw : opcodeOf w = op at hop
  fin_cases hop
  all_goals simp [hw, selectRow]

theorem selectRow_eq_none (w : Word) : selectRow w = none ↔ ReservedSelector w := by
  rcases opcode_cases (opcodeOf w) with hop | hop | hop
  · simp only [List.mem_cons, List.not_mem_nil, or_false] at hop
    rcases hop with hop | hop | hop | hop | hop
    all_goals
      simp [ReservedSelector, selectRow, hop, decodeRType_eq_none, decodeCop1_eq_none, ite_some_eq_none, reservedOpcodes]
  · simp [selectRow_of_plain hop]
  · simp only [selectRow_of_unlisted hop, true_iff]
    rcases List.mem_append.1 hop with h | h
    · exact .inr (.inr (.inr (.inl h)))
    · exact .inr (.inr (.inr (.inr (.inr h))))

/-! ## The decoder -/

section
variable {strict : Bool} {w : Word} {i : Instr}

theorem decode_eq_reserved : decode strict w = .reserved ↔ selectRow w = none := by
  unfold decode
  cases selectRow w with
  | none => simp
  | some j =>
    simp only [reduceCtorEq, iff_false]
    split <;> simp

theorem decode_eq_instr :
    decode strict w = .instr i ↔ selectRow w = some i ∧ (strict = true → w &&& unusedMask i = 0#32) := by
  unfold decode
  cases selectRow w with
  | none => simp
  | some j =>
    dsimp only
    split
    next hc =>
      obtain ⟨hs, hbits⟩ : strict = true ∧ w &&& unusedMask j ≠ 0#32 := by simpa using hc
      simp only [reduceCtorEq, false_iff]
      rintro ⟨⟨⟩, hz⟩
      exact hbits (hz hs)
    next hc =>
      have hz : strict = true → w &&& unusedMask j = 0#32 := by simpa using hc
      constructor
      · rintro ⟨⟩
        exact ⟨rfl, hz⟩
      · rintro ⟨⟨⟩, -⟩
        rfl

theorem decode_strict_eq_unusedField (hsel : selectRow w = some i) (hbits : w &&& unusedMask i ≠ 0#32) :
    decode true w = .unusedField := by
  simp [decode, hsel, hbits]

end

end Sys2Proof

namespace Sys2Proof.Machine

/-! ## The step at a fetched word -/

section
variable {s : State} {w : Word}

theorem fetchInstr_of_fetchedWord (hw : fetchedWord s = some w) : fetchInstr s = decodeFetched s w := by
  simp only [fetchedWord, Option.ite_none_right_eq_some, Bool.and_eq_true, Option.map_eq_some_iff] at hw
  obtain ⟨⟨⟨hal, hin⟩, htext⟩, bs, hread, rfl⟩ := hw
  simp [fetchInstr, hal, hin, htext, hread]

theorem decodeFetched_of_cp1Allows (ha : Cp1Allows s w) :
    (decode s.params.strictUnused w = .reserved → decodeFetched s w = .stop (raise s (.reservedInstruction w))) ∧
    (decode s.params.strictUnused w = .unusedField →
      decodeFetched s w = .stop (.refused (.unusedFieldNotZero w))) := by
  have hguard : (!s.params.cp1Usable && isCop1Word w) = false := by
    rcases ha with hu | hn
    · simp [hu]
    · simp [Bool.eq_false_iff.2 (mt (isCop1Word_iff w).1 hn)]
  constructor <;> intro hd <;> simp [decodeFetched, hguard, hd]

theorem step_of_reserved (hw : fetchedWord s = some w) (ha : Cp1Allows s w)
    (hd : decode s.params.strictUnused w = .reserved) : step s = raise s (.reservedInstruction w) := by
  rw [step, fetchInstr_of_fetchedWord hw, (decodeFetched_of_cp1Allows ha).1 hd]

theorem step_of_unusedField (hw : fetchedWord s = some w) (ha : Cp1Allows s w)
    (hd : decode s.params.strictUnused w = .unusedField) : step s = .refused (.unusedFieldNotZero w) := by
  rw [step, fetchInstr_of_fetchedWord hw, (decodeFetched_of_cp1Allows ha).2 hd]

end

/-! ## Branch targets -/

theorem toInt_append_zeros (imm : Imm) : (imm ++ 0#2).toInt = 4 * imm.toInt :=
  BitVec.toInt_append.trans (by simp)

theorem branchTarget_eq (pc : Word) (imm : Imm) :
    branchTarget pc imm = pc + 4#32 + BitVec.ofInt 32 (4 * imm.toInt) := by
  rw [branchTarget, BitVec.signExtend, toInt_append_zeros]

theorem signExtend_shiftLeft_two (imm : Imm) : imm.signExtend 32 <<< 2 = BitVec.ofInt 32 (4 * imm.toInt) := by
  rw [BitVec.signExtend, BitVec.ofInt_mul, BitVec.mul_comm, BitVec.shiftLeft_eq_mul_twoPow]
  rfl

theorem branchField_eq (pc label : Word) :
    branchField pc label = BitVec.ofInt 16 ((label - (pc + 4#32)).toInt / 4) := by
  unfold branchField
  generalize label - (pc + 4#32) = d
  apply BitVec.eq_of_toNat_eq
  rw [← BitVec.setWidth_eq_extractLsb' (by decide), BitVec.toNat_setWidth, BitVec.sshiftRight_eq,
    Int.shiftRight_eq_div_pow, BitVec.toNat_ofInt, BitVec.toNat_ofInt]
  omega

/-- The field of a label in range counts the words from the following address to the label. -/
theorem branchField_toInt {pc label : Word} (h : branchLabelInRange pc label = true) :
    4 * (branchField pc label).toInt = (label - (pc + 4#32)).toInt := by
  obtain ⟨hmod, hlow, hhigh⟩ := decide_eq_true_iff.1 h
  rw [branchField_eq, BitVec.toInt_ofInt, Int.bmod_eq_of_le] <;> omega

theorem branchTarget_branchField {pc label : Word} (h : branchLabelInRange pc label = true) :
    branchTarget pc (branchField pc label) = label := by
  rw [branchTarget_eq, branchField_toInt h, BitVec.ofInt_toInt, BitVec.add_comm, BitVec.sub_add_cancel]

/-! ## Jump targets -/

theorem jumpTarget_region (pc : Word) (target : Target) :
    (jumpTarget pc target).extractLsb' 28 4 = (pc + 4#32).extractLsb' 28 4 := by
  unfold jumpTarget
  rw [BitVec.append_assoc]
  exact BitVec.extractLsb'_append_eq_left

theorem jumpTarget_low (pc : Word) (target : Target) : (jumpTarget pc target).extractLsb' 0 2 = 0#2 :=
  BitVec.extractLsb'_append_eq_right (a := (pc + 4#32).extractLsb' 28 4 ++ target)

theorem word_eq_region_field_low (w : Word) : w.extractLsb' 28 4 ++ w.extractLsb' 2 26 ++ w.extractLsb' 0 2 = w := by
  have hhigh : w.extractLsb' 28 4 ++ w.extractLsb' 2 26 = w.extractLsb' 2 30 :=
    BitVec.extractLsb'_append_extractLsb'_eq_extractLsb' rfl
  have hall : w.extractLsb' 2 30 ++ w.extractLsb' 0 2 = w.extractLsb' 0 32 :=
    BitVec.extractLsb'_append_extractLsb'_eq_extractLsb' rfl
  rw [hhigh]
  exact hall.trans BitVec.extractLsb'_eq_self

theorem jumpLabelInRange_iff {pc label : Word} : jumpLabelInRange pc label = true ↔
    label.extractLsb' 0 2 = 0#2 ∧ label.extractLsb' 28 4 = (pc + 4#32).extractLsb' 28 4 :=
  decide_eq_true_iff

theorem jumpTarget_inRange (pc : Word) (target : Target) : jumpLabelInRange pc (jumpTarget pc target) = true :=
  jumpLabelInRange_iff.2 ⟨jumpTarget_low pc target, jumpTarget_region pc target⟩

theorem jumpTarget_jumpField {pc label : Word} (h : jumpLabelInRange pc label = true) :
    jumpTarget pc (jumpField label) = label := by
  obtain ⟨hlow, hregion⟩ := jumpLabelInRange_iff.1 h
  rw [jumpTarget, jumpField, ← hregion, ← hlow, word_eq_region_field_low]

/-- The instruction after the last word of a region lies in the next region. -/
theorem region_after_last_word {pc : Word} (h : pc.extractLsb' 0 28 = 0xFFFFFFC#28) :
    (pc + 4#32).extractLsb' 28 4 = pc.extractLsb' 28 4 + 1#4 := by
  have hlast := congrArg BitVec.toNat h
  apply BitVec.eq_of_toNat_eq
  simp [BitVec.extractLsb'_toNat, Nat.shiftRight_eq_div_pow] at hlast ⊢
  omega

end Sys2Proof.Machine
end

section
/-! The statements of 30_encoding.md. -/

namespace Sys2Proof.Machine

/-- Settles O1: an instruction's word has no bit in its unused fields and selects its row. -/
theorem decodeInvertsEncode : Obligations.DecodeInvertsEncode := by
  unfold Obligations.DecodeInvertsEncode
  intro strict i
  have hz := encode_and_unusedMask i
  exact decode_eq_instr.2 ⟨selectRow_eq_some.2 (by rw [hz, BitVec.or_zero]), fun _ => hz⟩

/-- Settles O2: a strictly read word is the word of its row with no bit in the unused fields. -/
theorem encodeInvertsStrictDecode : Obligations.EncodeInvertsStrictDecode := by
  unfold Obligations.EncodeInvertsStrictDecode
  intro w i h
  obtain ⟨hsel, hz⟩ := decode_eq_instr.1 h
  exact (eq_encode_of_selectRow hsel (hz rfl)).symm

/-- Settles O4: the words without a row are the reserved ones, and the fetch raises on them. -/
theorem reservedWordsRaise : Obligations.ReservedWordsRaise := by
  unfold Obligations.ReservedWordsRaise
  have hreserved : ∀ (strict : Bool) (w : Word), decode strict w = .reserved ↔ ReservedSelector w :=
    fun _ w => decode_eq_reserved.trans (selectRow_eq_none w)
  refine ⟨hreserved, fun s w hw ha hr => ?_⟩
  rw [step_of_reserved hw ha ((hreserved _ w).2 hr)]
  exact raise_stopsWith s _

/-- Settles O5: the words that select the row of `i` are those that differ from the word of `i` in its unused fields. -/
theorem unusedFieldBits : Obligations.UnusedFieldBits := by
  unfold Obligations.UnusedFieldBits
  refine ⟨fun i m hm => ?_, fun i w h => ?_, fun s i w hw ha h hne => ?_⟩
  · have hsel : selectRow (encode i ||| m) = some i := hm ▸ selectRow_encode_or i m
    have hbits : (encode i ||| m) &&& unusedMask i = m := by
      rw [BitVec.and_or_distrib_right, encode_and_unusedMask, hm, BitVec.zero_or]
    exact ⟨decode_eq_instr.2 ⟨hsel, by simp⟩, fun hne => decode_strict_eq_unusedField hsel (by rwa [hbits])⟩
  · obtain ⟨hsel, -⟩ := decode_eq_instr.1 h
    exact ⟨w &&& unusedMask i, by rw [BitVec.and_assoc, BitVec.and_self], selectRow_eq_some.1 hsel⟩
  · obtain ⟨hsel, -⟩ := decode_eq_instr.1 h
    refine ⟨fun hs => step_of_unusedField hw ha ?_, fun hs => step_of_runs ⟨w, hw, ha, hs ▸ h⟩⟩
    rw [hs]
    exact decode_strict_eq_unusedField hsel fun hz => hne (eq_encode_of_selectRow hsel hz)

/-- Settles O6: the displacement is four times the field, so the target undoes the coding of a label in range. -/
theorem branchTargets : Obligations.BranchTargets := by
  unfold Obligations.BranchTargets
  intro pc imm
  have hlow := imm.le_toInt
  have hhigh := imm.toInt_lt
  refine ⟨rfl, ?_, branchTarget_eq pc imm, by omega, ?_, ?_, fun label h => ⟨rfl, branchTarget_branchField h⟩⟩
  · rw [branchTarget_eq, signExtend_shiftLeft_two]
  · rw [branchTarget_eq, BitVec.add_assoc]
    exact BitVec.add_zero pc
  · exact BitVec.add_zero _

/-- Settles O7: a target is the region of the following address, the field and two 0 bits, and a label in range has these
three parts. -/
theorem jumpTargets : Obligations.JumpTargets := by
  unfold Obligations.JumpTargets
  intro pc
  refine ⟨fun _ => rfl, fun label => ⟨rfl, jumpTarget_jumpField, ?_, fun h => ⟨_, jumpTarget_jumpField h⟩⟩,
    fun hlast target => (jumpTarget_region pc target).trans (region_after_last_word hlast)⟩
  rintro ⟨target, rfl⟩
  exact jumpTarget_inRange pc target

/-- Settles O3: each word is read by evaluating the decoder. -/
theorem sampleWordsDecode : Obligations.SampleWordsDecode := by
  unfold Obligations.SampleWordsDecode
  decide

end Sys2Proof.Machine
end

section
/-! Inversion of the stops of an instruction: what must hold for it to raise each cause (60_exceptions.md R221). -/

namespace Sys2Proof.Machine

/-- What must hold of `i` and `s` for the execution of `i` to raise the cause. The two causes that only a fetch raises never
come from an execution. -/
def RaisedBy (i : Instr) (s : State) : Cause → Prop
  | .integerOverflow => SignedOverflow s i
  | .syscall => i = .syscall
  | .breakpoint => i = .breakpoint
  | .reservedInstruction _ | .addressErrorFetch _ => False
  | .coprocessorUnusable n => n = 1 ∧ s.params.cp1Usable = false ∧ usesCp1 i = true
  | .addressErrorLoad ea =>
    ∃ a, dataAccess i = some a ∧ a.store = false ∧ ea = accessAddress s a ∧ ea.toNat % a.bytes ≠ 0
  | .addressErrorStore ea =>
    ∃ a, dataAccess i = some a ∧ a.store = true ∧ ea = accessAddress s a ∧ ea.toNat % a.bytes ≠ 0
  | .unallocatedAccess ea =>
    ∃ a, dataAccess i = some a ∧ ea = accessAddress s a ∧ ¬AllBytesIn s.params.memAlloc ea a.bytes

/-- The faults with which `i` can stop at `s`. -/
inductive Stopping (i : Instr) (s : State) : Fault → Prop where
  | raised (c : Cause) (hc : RaisedBy i s c) : Stopping i s (.stopped c (exceptionPc s) (inDelaySlot s) s)
  | noValue (a : DataAccess) (ha : dataAccess i = some a) (hl : a.store = false) :
      Stopping i s (.noValue (accessAddress s a))

section
variable {i : Instr} {s : State} {f : Fault}

theorem stopping_raise {c : Cause} (hc : RaisedBy i s c) (h : raise s c = .fault f) : Stopping i s f := by
  cases h; exact .raised c hc

theorem stopping_trap {c : Bool} {rd : Reg} {v : Word} (hc : c = true → SignedOverflow s i)
    (h : (if c then raise s .integerOverflow else setX s rd v) = .fault f) : Stopping i s f := by
  cases c
  case false => cases h
  case true => exact stopping_raise (c := .integerOverflow) (hc rfl) h

theorem stopping_usingCp1 {k : Result} (hi : usesCp1 i = true) (h : usingCp1 s k = .fault f)
    (hk : k = .fault f → Stopping i s f) : Stopping i s f := by
  cases hu : s.params.cp1Usable
  case false =>
    rw [usingCp1_of_unusable k hu] at h
    exact stopping_raise (c := .coprocessorUnusable 1) ⟨rfl, hu, hi⟩ h
  case true => exact hk (usingCp1_of_usable k hu ▸ h)

/-- A load whose guards let it act stops at its alignment, at `MEM_ALLOC`, or at a byte without a value. -/
theorem stopping_load {a : DataAccess} {g : Nat → State} (ha : dataAccess i = some a) (hl : a.store = false)
    (h : load s (accessAddress s a) a.bytes (fun v => .next (g v)) = .fault f) : Stopping i s f := by
  rcases load_cases s (accessAddress s a) a.bytes (fun v => .next (g v)) with
    ⟨hal, e⟩ | ⟨-, hin, e⟩ | ⟨-, -, -, e⟩ | ⟨bs, -, -, -, e⟩
  · rw [Bool.eq_false_iff, Ne, aligned_iff] at hal
    exact stopping_raise (c := .addressErrorLoad _) ⟨a, ha, hl, rfl, hal⟩ (e.symm.trans h)
  · rw [Bool.eq_false_iff, Ne, allIn_iff] at hin
    exact stopping_raise (c := .unallocatedAccess _) ⟨a, ha, rfl, hin⟩ (e.symm.trans h)
  · cases e.symm.trans h
    exact .noValue a ha hl
  · cases e.symm.trans h

/-- A store whose guards let it act stops at its alignment or at `MEM_ALLOC`. -/
theorem stopping_store {a : DataAccess} {v : Word} (ha : dataAccess i = some a) (hs : a.store = true)
    (h : store s (accessAddress s a) a.bytes v = .fault f) : Stopping i s f := by
  rcases store_cases s (accessAddress s a) a.bytes v with ⟨hal, e⟩ | ⟨-, hin, e⟩ | ⟨-, -, -, e⟩ | ⟨-, -, -, e⟩
  · rw [Bool.eq_false_iff, Ne, aligned_iff] at hal
    exact stopping_raise (c := .addressErrorStore _) ⟨a, ha, hs, rfl, hal⟩ (e.symm.trans h)
  · rw [Bool.eq_false_iff, Ne, allIn_iff] at hin
    exact stopping_raise (c := .unallocatedAccess _) ⟨a, ha, rfl, hin⟩ (e.symm.trans h)
  · cases e.symm.trans h
  · cases e.symm.trans h

theorem stopping_branchIf {reads : List RegName} {cond : Bool} {imm : Imm}
    (h : branchIf s reads cond imm = .fault f) : Stopping i s f := by
  obtain ⟨-, hr⟩ := transferring_fault h
  cases (reading_fault hr).2

/-- The inversion of the stops of `exec`, beside `exec_completion`. -/
theorem exec_fault (h : exec i s = .fault f) : Stopping i s f := by
  cases i with
  | sll | srl | sra | sllv | srlv | srav | addu | subu | and | or | xor | nor | slt | sltu | addiu | slti | sltiu
  | andi | ori | xori | mthi | mtlo | mult | multu | div | divu => cases (reading_fault h).2
  | lui | mfhi | mflo => cases h
  | add rd rs rt => exact stopping_trap (fun hc => .inl ⟨rd, rs, rt, rfl, hc⟩) (reading_fault h).2
  | addi rt rs imm => exact stopping_trap (fun hc => .inr (.inl ⟨rt, rs, imm, rfl, hc⟩)) (reading_fault h).2
  | sub rd rs rt => exact stopping_trap (fun hc => .inr (.inr ⟨rd, rs, rt, rfl, hc⟩)) (reading_fault h).2
  | lb _ imm rs | lbu _ imm rs => exact stopping_load (a := ⟨false, rs, imm, 1⟩) rfl rfl (reading_fault h).2
  | lh _ imm rs | lhu _ imm rs => exact stopping_load (a := ⟨false, rs, imm, 2⟩) rfl rfl (reading_fault h).2
  | lw _ imm rs => exact stopping_load (a := ⟨false, rs, imm, 4⟩) rfl rfl (reading_fault h).2
  | sb _ imm rs => exact stopping_store (a := ⟨true, rs, imm, 1⟩) rfl rfl (reading_fault h).2
  | sh _ imm rs => exact stopping_store (a := ⟨true, rs, imm, 2⟩) rfl rfl (reading_fault h).2
  | sw _ imm rs => exact stopping_store (a := ⟨true, rs, imm, 4⟩) rfl rfl (reading_fault h).2
  | lwc1 _ imm rs =>
    exact stopping_usingCp1 rfl h fun hk => stopping_load (a := ⟨false, rs, imm, 4⟩) rfl rfl (reading_fault hk).2
  | swc1 _ imm rs =>
    exact stopping_usingCp1 rfl h fun hk => stopping_store (a := ⟨true, rs, imm, 4⟩) rfl rfl (reading_fault hk).2
  | addS | subS | mulS | divS | movS | cvtSW | cvtWS | mfc1 | mtc1 =>
    exact stopping_usingCp1 rfl h fun hk => by cases (reading_fault hk).2
  | bltz | bgez | beq | bne | blez | bgtz => exact stopping_branchIf h
  | jr | jalr => cases (reading_fault (transferring_fault h).2).2
  | j | jal => cases (transferring_fault h).2
  | syscall => exact stopping_raise (c := .syscall) rfl h
  | breakpoint => exact stopping_raise (c := .breakpoint) rfl h

end

end Sys2Proof.Machine
end

section
/-! Arithmetic of words and what the register instructions do with it: signed overflow by the sign bits, shifts bit by
bit, and the shapes of an instruction with a general destination (40_rtype_alu.md R130 to R137). -/

namespace Sys2Proof.Machine

/-! ## Signed overflow by the sign bits -/

/-- Bit 31 of a word is its sign. -/
theorem getLsbD_31 (a : Word) : a.getLsbD 31 = a.msb := (BitVec.msb_eq_getLsbD_last a).symm

theorem addOverflows_eq_saddOverflow (a b : Word) : addOverflows a b = BitVec.saddOverflow a b := by
  rw [Bool.eq_iff_iff, addOverflows_iff]
  simp only [BitVec.saddOverflow, Bool.or_eq_true, decide_eq_true_eq]
  omega

theorem subOverflows_eq_ssubOverflow (a b : Word) : subOverflows a b = BitVec.ssubOverflow a b := by
  rw [Bool.eq_iff_iff, subOverflows_iff]
  simp only [BitVec.ssubOverflow, Bool.or_eq_true, decide_eq_true_eq]
  omega

/-- A sum overflows when the operands have one sign bit and the sum the other (40_rtype_alu.md R137). -/
theorem addOverflows_iff_signBits (a b : Word) :
    addOverflows a b = true ↔ a.getLsbD 31 = b.getLsbD 31 ∧ (a + b).getLsbD 31 ≠ a.getLsbD 31 := by
  rw [addOverflows_eq_saddOverflow, BitVec.saddOverflow_eq, getLsbD_31, getLsbD_31, getLsbD_31]
  simp

/-- A difference overflows when the operands have different sign bits and the difference not that of the first
(40_rtype_alu.md R137). -/
theorem subOverflows_iff_signBits (a b : Word) :
    subOverflows a b = true ↔ a.getLsbD 31 ≠ b.getLsbD 31 ∧ (a - b).getLsbD 31 ≠ a.getLsbD 31 := by
  rw [subOverflows_eq_ssubOverflow, BitVec.ssubOverflow_eq, getLsbD_31, getLsbD_31, getLsbD_31]
  cases a.msb <;> cases b.msb <;> simp

theorem signedImm_toInt (imm : Imm) : (signedImm imm).toInt = imm.toInt :=
  BitVec.toInt_signExtend_of_le (by decide)

/-! ## Shifts bit by bit -/

theorem getLsbD_shiftLeft_word (v : Word) (n : Nat) {k : Nat} (hk : k < 32) :
    (v <<< n).getLsbD k = (decide (n ≤ k) && v.getLsbD (k - n)) := by
  rw [BitVec.getLsbD_shiftLeft, decide_eq_true hk, Bool.true_and]
  by_cases h : n ≤ k
  · simp [h, Nat.not_lt.2 h]
  · simp [h, Nat.not_le.1 h]

theorem getLsbD_ushiftRight_word (v : Word) (n k : Nat) :
    (v >>> n).getLsbD k = (decide (k + n < 32) && v.getLsbD (k + n)) := by
  rw [BitVec.getLsbD_ushiftRight, Nat.add_comm]
  by_cases h : k + n < 32
  · simp [h]
  · simp [h, BitVec.getLsbD_of_ge v _ (Nat.not_lt.1 h)]

/-- The sign enters at bit 31 of an arithmetic right shift. -/
theorem getLsbD_sshiftRight_word (v : Word) (n : Nat) {k : Nat} (hk : k < 32) :
    (v.sshiftRight n).getLsbD k = v.getLsbD (min (k + n) 31) := by
  rw [BitVec.getLsbD_sshiftRight, Nat.add_comm]
  by_cases h : k + n < 32
  · simp [h, hk, Nat.min_eq_left (Nat.le_of_lt_succ h)]
  · simp [h, hk, ← getLsbD_31, Nat.min_eq_right (by omega : 31 ≤ k + n)]

/-- An arithmetic right shift divides and rounds toward minus infinity (40_rtype_alu.md R132). -/
theorem toInt_sshiftRight_word (v : Word) (n : Nat) : (v.sshiftRight n).toInt = v.toInt / (2 ^ n : Nat) := by
  rw [BitVec.toInt_sshiftRight, Int.shiftRight_eq_div_pow]

/-- The low five bits of a word are its remainder by 32. -/
theorem shiftAmount_eq (v : Word) : shiftAmount v = v.toNat % 32 := by
  simp [shiftAmount]

/-! ## Instructions with a general destination -/

section
variable {i : Instr} {s : State} {reads : List RegName} {rd : Reg} {v : Word} {c : Bool} {e : Cause}

/-- An instruction that reads registers and writes one does so when none of them was just loaded. -/
theorem writesX_of_reading (hu : NoLoadedUse s reads) (he : exec i s = reading s reads (setX s rd v)) :
    WritesX i s rd v none :=
  setX_writes (he.trans (reading_of_noUse _ hu))

theorem stops_of_trap (hu : NoLoadedUse s reads)
    (he : exec i s = reading s reads (if c then raise s e else setX s rd v)) (hc : c = true) : Stops i s e := by
  rw [Stops, he, reading_of_noUse _ hu, if_pos hc]
  exact raise_stopsWith s e

theorem writesX_of_no_trap (hu : NoLoadedUse s reads)
    (he : exec i s = reading s reads (if c then raise s e else setX s rd v)) (hc : ¬c = true) :
    WritesX i s rd v none :=
  writesX_of_reading hu (he.trans (by rw [if_neg hc]))

theorem stopsWith_ne_next {o : Result} {t : State} (h : StopsWith o s e) : o ≠ .next t := by
  obtain ⟨hout, hin⟩ := h
  by_cases hs : NotInSlot s
  · simp [hout hs]
  · simp [hin hs]

/-- An instruction with an overflow check stops exactly when the check fires. -/
theorem stops_iff_trap (hu : NoLoadedUse s reads)
    (he : exec i s = reading s reads (if c then raise s e else setX s rd v)) : Stops i s e ↔ c = true := by
  refine ⟨fun hs => ?_, stops_of_trap hu he⟩
  by_contra hc
  obtain ⟨t, ht, -⟩ := writesX_of_no_trap hu he hc
  exact stopsWith_ne_next hs ht

end

end Sys2Proof.Machine
end

section
/-! The statements of 40_rtype_alu.md, and `addi` of 43_itype_alu_imm.md. -/

namespace Sys2Proof.Machine

/-- Settles O16: the range test of the model is the test of the sign bits, and a trap precedes the write. -/
theorem signedAddSubtractTraps : Obligations.SignedAddSubtractTraps := by
  unfold Obligations.SignedAddSubtractTraps
  refine ⟨?add, ?sub, ?addi⟩
  case add =>
    rintro s rd rs rt _ _ _ hu rfl rfl rfl
    rw [← addOverflows_iff_signBits]
    exact ⟨rfl, stops_of_trap hu rfl, writesX_of_no_trap hu rfl⟩
  case sub =>
    rintro s rd rs rt _ _ _ hu rfl rfl rfl
    rw [← subOverflows_iff_signBits]
    exact ⟨rfl, stops_of_trap hu rfl, writesX_of_no_trap hu rfl⟩
  case addi =>
    rintro s rt rs imm _ _ _ hu rfl rfl rfl
    rw [← addOverflows_iff_signBits]
    exact ⟨rfl, stops_of_trap hu rfl, writesX_of_no_trap hu rfl⟩

/-- Settles O17: the three instructions stop exactly when their range test fires, which agrees with the sign bits, and
the inversion of the stops of `exec` leaves no other instruction. -/
theorem overflowIsOutOfRange : Obligations.OverflowIsOutOfRange := by
  unfold Obligations.OverflowIsOutOfRange
  refine ⟨fun s rd rs rt hu => ?_, fun s rt rs imm hu => ?_, fun a b => ?_, fun a b => ?_, fun i s t epc d h => ?_⟩
  · rw [← addOverflows_iff, ← subOverflows_iff]
    exact ⟨stops_iff_trap hu rfl, stops_iff_trap hu rfl⟩
  · rw [← signedImm_toInt, ← addOverflows_iff]
    exact stops_iff_trap hu rfl
  · rw [← addOverflows_iff, addOverflows_iff_signBits]
  · rw [← subOverflows_iff, subOverflows_iff_signBits]
  · cases exec_fault h with
    | raised _ hc =>
      refine ⟨fun _ => rfl, ?_⟩
      rcases hc with ⟨rd, rs, rt, hi, -⟩ | ⟨rt, rs, imm, hi, -⟩ | ⟨rd, rs, rt, hi, -⟩
      · exact .inl ⟨rd, rs, rt, hi⟩
      · exact .inr (.inl ⟨rt, rs, imm, hi⟩)
      · exact .inr (.inr ⟨rd, rs, rt, hi⟩)

/-- Settles O13: addition and subtraction of words are those of their values modulo 2^32. -/
theorem unsignedAddAndSubtract : Obligations.UnsignedAddAndSubtract := by
  unfold Obligations.UnsignedAddAndSubtract
  intro s rd rs rt hu
  have hsum : BitVec.ofNat 32 ((readX s rs).toNat + (readX s rt).toNat) = readX s rs + readX s rt := by
    rw [BitVec.ofNat_add, BitVec.ofNat_toNat, BitVec.ofNat_toNat, BitVec.setWidth_eq, BitVec.setWidth_eq]
  have hdiff : BitVec.ofInt 32 ((readX s rs).toNat - (readX s rt).toNat) = readX s rs - readX s rt := by
    apply BitVec.eq_of_toNat_eq
    rw [BitVec.toNat_ofInt, BitVec.toNat_sub]
    omega
  rw [hsum, hdiff]
  exact ⟨⟨rfl, writesX_of_reading hu rfl⟩, rfl, writesX_of_reading hu rfl⟩

/-- Settles O14: each writes the bitwise operation of the two values. -/
theorem registerLogic : Obligations.RegisterLogic := by
  unfold Obligations.RegisterLogic
  intro s rd rs rt hu
  refine ⟨⟨rfl, _, writesX_of_reading hu rfl, fun k _ => ?_⟩, ⟨rfl, _, writesX_of_reading hu rfl, fun k _ => ?_⟩,
    ⟨rfl, _, writesX_of_reading hu rfl, fun k _ => ?_⟩, rfl, _, writesX_of_reading hu rfl, fun k hk => ?_⟩
  · exact BitVec.getLsbD_and
  · exact BitVec.getLsbD_or
  · exact BitVec.getLsbD_xor
  · rw [BitVec.getLsbD_not, BitVec.getLsbD_or, decide_eq_true hk, Bool.true_and]

/-- Settles O15: each writes `setValue` of its comparison. -/
theorem setOnLessThan : Obligations.SetOnLessThan := by
  unfold Obligations.SetOnLessThan
  intro s rd rs rt hu
  have hslt : WritesX (.slt rd rs rt) s rd (setValue (decide ((readX s rs).toInt < (readX s rt).toInt))) none :=
    writesX_of_reading hu rfl
  have hsltu : WritesX (.sltu rd rs rt) s rd (setValue (decide ((readX s rs).toNat < (readX s rt).toNat))) none :=
    writesX_of_reading hu rfl
  refine ⟨rfl, rfl, fun h => ?_, fun h => ?_, fun h => ?_, fun h => ?_⟩
  · rwa [decide_eq_true h] at hslt
  · rwa [decide_eq_false h] at hslt
  · rwa [decide_eq_true h] at hsltu
  · rwa [decide_eq_false h] at hsltu

/-- Settles O18, from the rules about shifts. -/
theorem constantShifts : Obligations.ConstantShifts := by
  unfold Obligations.ConstantShifts
  intro s rd rt sa hu
  exact ⟨⟨rfl, _, writesX_of_reading hu rfl, fun _ => getLsbD_shiftLeft_word _ _⟩,
    ⟨rfl, _, writesX_of_reading hu rfl, fun k _ => getLsbD_ushiftRight_word _ _ k⟩,
    rfl, _, writesX_of_reading hu rfl, fun _ => getLsbD_sshiftRight_word _ _, toInt_sshiftRight_word _ _⟩

/-- Settles O19: the constant shifts with the low five bits of a register as the amount. -/
theorem variableShifts : Obligations.VariableShifts := by
  unfold Obligations.VariableShifts
  rintro s rd rt rs _ hu rfl
  rw [← shiftAmount_eq]
  exact ⟨⟨rfl, _, writesX_of_reading hu rfl, fun _ => getLsbD_shiftLeft_word _ _⟩,
    ⟨rfl, _, writesX_of_reading hu rfl, fun k _ => getLsbD_ushiftRight_word _ _ k⟩,
    rfl, _, writesX_of_reading hu rfl, fun _ => getLsbD_sshiftRight_word _ _⟩

end Sys2Proof.Machine
end

section
/-! Products, quotients and remainders of words, and what the instructions on `HI` and `LO` do with them
(41_rtype_muldiv.md R140 to R147). -/

namespace Sys2Proof.Machine

/-! ## The two words of a product -/

theorem highWord_append_lowWord (p : BitVec 64) : highWord p ++ lowWord p = p :=
  BitVec.extractLsb'_append_extractLsb' (w := 32) (len := 32)

theorem toInt_eq_words (p : BitVec 64) : (highWord p).toInt * 4294967296 + (lowWord p).toNat = p.toInt := by
  calc (highWord p).toInt * 4294967296 + (lowWord p).toNat
      = (highWord p ++ lowWord p).toInt := by
        rw [BitVec.toInt_append]
        simp [Int.mul_comm]
    _ = p.toInt := congrArg BitVec.toInt (highWord_append_lowWord p)

theorem toNat_eq_words (p : BitVec 64) : (highWord p).toNat * 4294967296 + (lowWord p).toNat = p.toNat := by
  calc (highWord p).toNat * 4294967296 + (lowWord p).toNat
      = (highWord p ++ lowWord p).toNat := by
        rw [BitVec.toNat_append, ← Nat.shiftLeft_add_eq_or_of_lt (lowWord p).isLt, Nat.shiftLeft_eq]
    _ = p.toNat := congrArg BitVec.toNat (highWord_append_lowWord p)

/-- No product of two signed words leaves the range of 64 bits. -/
theorem signedProduct_toInt (a b : Word) : (signedProduct a b).toInt = a.toInt * b.toInt := by
  have hle : a.toInt * b.toInt ≤ 2 ^ 62 := BitVec.toInt_mul_toInt_le
  have hge : -(2 ^ 62) ≤ a.toInt * b.toInt := BitVec.le_toInt_mul_toInt
  exact BitVec.toInt_ofInt_eq_self (by decide) (by omega) (by omega)

/-- No product of two unsigned words leaves the range of 64 bits. -/
theorem unsignedProduct_toNat (a b : Word) : (unsignedProduct a b).toNat = a.toNat * b.toNat := by
  have hlt : a.toNat * b.toNat < 2 ^ 32 * 2 ^ 32 := Nat.mul_lt_mul'' a.isLt b.isLt
  exact Nat.mod_eq_of_lt hlt

/-! ## Division -/

/-- The operands for which the spec leaves the result of `div` open (41_rtype_muldiv.md R142). -/
def DivIsOpen (a b : Word) : Prop := b.toInt = 0 ∨ (a.toInt = -2147483648 ∧ b.toInt = -1)

theorem divPair_of_open {a b : Word} (h : DivIsOpen a b) : divPair a b = Config.divResult .div a b := if_pos h

/-- Where the result of `div` is stated it is the remainder and the quotient of the library, truncated toward zero. -/
theorem divPair_of_not_open {a b : Word} (h : ¬DivIsOpen a b) : divPair a b = (a.srem b, a.sdiv b) := by
  have hrem : BitVec.ofInt 32 (a.toInt - a.toInt.tdiv b.toInt * b.toInt) = a.srem b := by
    rw [Int.mul_comm, ← Int.tmod_def, ← BitVec.toInt_srem, BitVec.ofInt_toInt]
  have hquot : BitVec.ofInt 32 (a.toInt.tdiv b.toInt) = a.sdiv b := by
    apply BitVec.eq_of_toInt_eq
    rw [BitVec.toInt_ofInt, BitVec.toInt_sdiv]
  rw [← hrem, ← hquot]
  exact if_neg h

/-- The one quotient that does not fit a signed word is that of -2^31 by -1. -/
theorem sdiv_toInt {a b : Word} (h : ¬DivIsOpen a b) : (a.sdiv b).toInt = a.toInt.tdiv b.toInt := by
  apply BitVec.toInt_sdiv_of_ne_or_ne
  by_contra hn
  obtain ⟨rfl, rfl⟩ : a = BitVec.intMin 32 ∧ b = -1#32 := by simpa using hn
  exact h (.inr (by decide))

theorem tmod_nonpos {n : Int} (d : Int) (h : n ≤ 0) : n.tmod d ≤ 0 := by
  have hneg : 0 ≤ (-n).tmod d := Int.tmod_nonneg d (by omega)
  rw [Int.neg_tmod] at hneg
  omega

theorem natAbs_tmod_lt (n : Int) {d : Int} (h : d ≠ 0) : (n.tmod d).natAbs < d.natAbs := by
  rw [Int.natAbs_tmod]
  exact Nat.mod_lt _ (Int.natAbs_pos.2 h)

theorem divuPair_of_zero {a b : Word} (h : b = 0#32) : divuPair a b = Config.divResult .divu a b :=
  if_pos (BitVec.toNat_eq.1 h)

theorem divuPair_of_ne_zero {a b : Word} (h : b ≠ 0#32) : divuPair a b = (a % b, a / b) := by
  rw [BitVec.umod_def, BitVec.udiv_def]
  exact if_neg fun h0 => h (BitVec.toNat_eq.2 h0)

/-! ## Instructions that write `HI` and `LO` -/

/-- An instruction that reads registers and writes `HI` and `LO` does so when none of them was just loaded. -/
theorem writesHiLo_of_reading {i : Instr} {s : State} {reads : List RegName} {hi lo : Word} {post : Word → Word → Prop}
    (hu : NoLoadedUse s reads) (he : exec i s = reading s reads (setHiLo s hi lo)) (hp : post hi lo) :
    WritesHiLo i s post :=
  setHiLo_writes (he.trans (reading_of_noUse _ hu)) hp

end Sys2Proof.Machine
end

section
/-! The statements of 41_rtype_muldiv.md. -/

namespace Sys2Proof.Machine

/-- Settles O20: the product fits 64 bits, and `HI` and `LO` are its two words. -/
theorem multiplyIsExact : Obligations.MultiplyIsExact := by
  unfold Obligations.MultiplyIsExact
  intro s rs rt hu
  refine ⟨⟨rfl, writesHiLo_of_reading hu rfl ?signed⟩, rfl, writesHiLo_of_reading hu rfl ?unsigned⟩
  case signed => rw [toInt_eq_words, signedProduct_toInt]
  case unsigned => rw [toNat_eq_words, unsignedProduct_toNat]

/-- Settles O21: outside the open operands the pair is the truncated division, on them the free value. -/
theorem signedDivide : Obligations.SignedDivide := by
  unfold Obligations.SignedDivide
  rintro s rs rt _ _ hu rfl rfl
  refine ⟨rfl, fun hdef => writesHiLo_of_reading hu rfl ?_, fun hopen => writesHiLo_of_reading hu rfl ?_⟩
  · have hd : (readX s rt).toInt ≠ 0 := fun h0 => hdef (.inl h0)
    rw [divPair_of_not_open hdef, sdiv_toInt hdef, BitVec.toInt_srem]
    exact ⟨Int.tdiv_mul_add_tmod _ _, natAbs_tmod_lt _ hd, Int.tmod_nonneg _, tmod_nonpos _⟩
  · exact divPair_of_open hopen

/-- Settles O22: for a non-zero divisor the pair is the floor division, for a zero divisor the free value. -/
theorem unsignedDivide : Obligations.UnsignedDivide := by
  unfold Obligations.UnsignedDivide
  intro s rs rt hu
  refine ⟨rfl, fun hd => writesHiLo_of_reading hu rfl ?_, fun hz => writesHiLo_of_reading hu rfl ?_⟩
  · have hpos : 0 < (readX s rt).toNat := Nat.pos_of_ne_zero fun h0 => hd (BitVec.toNat_eq.2 h0)
    rw [divuPair_of_ne_zero hd, BitVec.toNat_udiv, BitVec.toNat_umod]
    exact ⟨Nat.div_add_mod' _ _, Nat.mod_lt _ hpos⟩
  · exact divuPair_of_zero hz

/-- Settles O23: each move is one write of a general register or of the pair, which keeps the other word. -/
theorem hiLoMoves : Obligations.HiLoMoves := by
  unfold Obligations.HiLoMoves
  intro s r
  exact ⟨⟨rfl, setX_writes rfl⟩, ⟨rfl, setX_writes rfl⟩, ⟨rfl, fun hu => writesHiLo_of_reading hu rfl ⟨rfl, rfl⟩⟩,
    rfl, fun hu => writesHiLo_of_reading hu rfl ⟨rfl, rfl⟩⟩

end Sys2Proof.Machine
end

section
/-! Register jumps: where `jr` and `jalr` go, and the fetch from a misaligned address (10_state.md R35). -/

namespace Sys2Proof.Machine

section
variable {i : Instr} {s t : State} {rd rs : Reg}

/-- The first check of a fetch (20_memory.md R56). -/
theorem step_of_misaligned_pc (h : s.pc.toNat % 4 ≠ 0) : step s = raise s (.addressErrorFetch s.pc) := by
  have hal : aligned s.pc 4 = false := Bool.eq_false_iff.2 (mt (aligned_iff s.pc 4).1 h)
  simp [step, fetchInstr, hal]

theorem stopsWith_of_misaligned_pc {w : Word} (hpc : s.pc = w) (h : w.toNat % 4 ≠ 0) :
    StopsWith (step s) s (.addressErrorFetch w) := by
  subst hpc
  rw [step_of_misaligned_pc h]
  exact raise_stopsWith s _

theorem exec_jr (hs : NotInSlot s) (hu : NoLoadedUse s [.gpr rs]) :
    exec (.jr rs) s = .next (branchTo s (readX s rs)) :=
  (transferring_of_notInSlot _ hs).trans (reading_of_noUse _ hu)

/-- The target is that of the state before the link is written. -/
theorem exec_jalr (hs : NotInSlot s) (hu : NoLoadedUse s [.gpr rs]) :
    exec (.jalr rd rs) s = .next (branchTo (writeX s rd (linkAddr s)) (readX s rs)) :=
  (transferring_of_notInSlot _ hs).trans (reading_of_noUse _ hu)

theorem registerJump_wentTo (hi : i = .jr rs ∨ i = .jalr rd rs) (he : exec i s = .next t) :
    WentTo s t (readX s rs) := by
  rcases hi with rfl | rfl
  · cases (reading_next (transferring_next he).2).2
    exact branchTo_wentTo _ rfl rfl rfl
  · cases (reading_next (transferring_next he).2).2
    exact branchTo_wentTo _ (by simp) (by simp) (by simp)

/-- With `BRANCH_DELAY` every step that completes goes to `npc` (10_state.md R30, R32). -/
theorem step_next_pc (hb : s.params.branchDelay = true) (h : step s = .next t) : t.pc = s.npc := by
  obtain ⟨j, -, he⟩ := step_next h
  exact ((exec_completion he).next_pc.2 hb).1

end

end Sys2Proof.Machine
end

section
/-! The statements of 42_rtype_jump_system.md. -/

namespace Sys2Proof.Machine

/-- Settles O28: the jump makes the target `pc`, or with `BRANCH_DELAY` `npc`, which the step of the delay slot makes
`pc`; the fetch from there checks the alignment first. -/
theorem registerJumps : Obligations.RegisterJumps := by
  unfold Obligations.RegisterJumps
  refine ⟨fun s rd rs hs hu => ⟨⟨rfl, branchTo_jumps (exec_jr hs hu)⟩, rfl, branchTo_links (exec_jalr hs hu)⟩,
    fun i s t rd rs hi he hmis => ?_⟩
  obtain ⟨hoff, hon, -⟩ := registerJump_wentTo hi he
  refine ⟨fun hb => ?_, fun hb u hstep => ?_⟩
  · exact stopsWith_of_misaligned_pc (hoff hb).1 hmis
  · obtain ⟨-, hnpc, -⟩ := hon hb
    have hbt : t.params.branchDelay = true := (exec_completion he).params_eq ▸ hb
    exact stopsWith_of_misaligned_pc ((step_next_pc hbt hstep).trans hnpc) hmis

/-- Settles O52: the whole execution of each is `raise`, which records the unchanged state. -/
theorem syscallAndBreakStop : Obligations.SyscallAndBreakStop := by
  unfold Obligations.SyscallAndBreakStop
  exact ⟨rfl, rfl, fun s => ⟨raise_stopsWith s .syscall, raise_stopsWith s .breakpoint⟩⟩

end Sys2Proof.Machine
end

section
/-! The immediates of the register instructions as numbers and bit by bit, and the write of a comparison's result
(30_encoding.md R98, 43_itype_alu_imm.md R161 to R167). -/

namespace Sys2Proof.Machine

/-- The sum of words is the sum of the signed numbers modulo 2^32 (43_itype_alu_imm.md R161). -/
theorem add_signedImm_eq_ofInt (a : Word) (imm : Imm) : a + signedImm imm = BitVec.ofInt 32 (a.toInt + imm.toInt) := by
  rw [BitVec.ofInt_add, BitVec.ofInt_toInt, ← signedImm_toInt, BitVec.ofInt_toInt]

/-- Bits 31:16 of a logical immediate count as 0 (43_itype_alu_imm.md R164). -/
theorem getLsbD_zeroImm (imm : Imm) (k : Nat) : (zeroImm imm).getLsbD k = (decide (k < 16) && imm.getLsbD k) := by
  rw [zeroImm, BitVec.getLsbD_setWidth]
  by_cases hk : k < 16
  · rw [decide_eq_true hk, decide_eq_true (by omega : k < 32)]
  · rw [BitVec.getLsbD_of_ge imm k (Nat.not_lt.1 hk), Bool.and_false, Bool.and_false]

/-- Sixteen 0 bits below the immediate multiply it by 2^16 (43_itype_alu_imm.md R167). -/
theorem upperImm_toNat (imm : Imm) : (upperImm imm).toNat = imm.toNat * 65536 := by
  rw [upperImm, BitVec.toNat_append, BitVec.toNat_ofNat, Nat.zero_mod, Nat.or_zero, Nat.shiftLeft_eq]

/-- The two results of a comparison, each under its condition. -/
theorem writesX_of_setValue {i : Instr} {s : State} {rd : Reg} {p : Prop} [Decidable p]
    (h : WritesX i s rd (setValue (decide p)) none) :
    (p → WritesX i s rd 1#32 none) ∧ (¬p → WritesX i s rd 0#32 none) := by
  refine ⟨fun hp => ?_, fun hp => ?_⟩
  · rwa [decide_eq_true hp] at h
  · rwa [decide_eq_false hp] at h

end Sys2Proof.Machine
end

section
/-! The statements of 43_itype_alu_imm.md but that of `addi`. -/

namespace Sys2Proof.Machine

/-- Settles O25: the model compares with the sign-extended word, whose signed number is that of the immediate. -/
theorem arithmeticImmediates : Obligations.ArithmeticImmediates := by
  unfold Obligations.ArithmeticImmediates
  intro s rt rs imm hu
  rw [← add_signedImm_eq_ofInt, ← signedImm_toInt]
  obtain ⟨hless, hnotLess⟩ := writesX_of_setValue (i := .slti rt rs imm) (rd := rt)
    (p := (readX s rs).toInt < (signedImm imm).toInt) (writesX_of_reading hu rfl)
  obtain ⟨hbelow, hnotBelow⟩ := writesX_of_setValue (i := .sltiu rt rs imm) (rd := rt)
    (p := (readX s rs).toNat < (signedImm imm).toNat) (writesX_of_reading hu rfl)
  exact ⟨⟨rfl, writesX_of_reading hu rfl⟩, rfl, rfl, hless, hnotLess, hbelow, hnotBelow⟩

/-- Settles O26: `lui` writes the upper immediate, and the others combine the bits of `x[rs]` with those of the
zero-extended immediate. -/
theorem logicalImmediates : Obligations.LogicalImmediates := by
  unfold Obligations.LogicalImmediates
  intro s rt rs imm
  refine ⟨⟨rfl, _, setX_writes rfl, upperImm_toNat imm⟩, fun hu => ⟨⟨rfl, _, writesX_of_reading hu rfl, ?and⟩,
    ⟨rfl, _, writesX_of_reading hu rfl, ?or⟩, rfl, _, writesX_of_reading hu rfl, ?xor⟩⟩
  all_goals intro k _; rw [← getLsbD_zeroImm]
  case and => exact BitVec.getLsbD_and
  case or => exact BitVec.getLsbD_or
  case xor => exact BitVec.getLsbD_xor

end Sys2Proof.Machine
end

section
/-! Conditional branches: the signed comparisons with zero as conditions on bit 31, and where a branch goes
(44_itype_branch.md R170 to R176). -/

namespace Sys2Proof.Machine

/-! ## Comparison with zero -/

theorem toInt_neg_iff_bit31 (a : Word) : a.toInt < 0 ↔ a.getLsbD 31 = true := by
  rw [getLsbD_31, BitVec.msb_eq_toInt, decide_eq_true_iff]

theorem toInt_nonneg_iff_bit31 (a : Word) : 0 ≤ a.toInt ↔ a.getLsbD 31 = false := by
  rw [← not_lt, toInt_neg_iff_bit31, Bool.not_eq_true]

theorem toInt_nonpos_iff_bit31 (a : Word) : a.toInt ≤ 0 ↔ a.getLsbD 31 = true ∨ a = 0#32 := by
  rw [le_iff_lt_or_eq, toInt_neg_iff_bit31, ← BitVec.toInt_zero (w := 32), BitVec.toInt_inj]

theorem toInt_pos_iff_bit31 (a : Word) : 0 < a.toInt ↔ a.getLsbD 31 = false ∧ a ≠ 0#32 := by
  rw [← not_le, toInt_nonpos_iff_bit31, not_or, Bool.not_eq_true]

/-! ## Branch on a condition -/

/-- Outside a delay slot, with its registers not just loaded, a branch completes on either outcome of its condition. -/
theorem branchIf_eq_next {s : State} {reads : List RegName} {cond : Bool} {imm : Imm} (hs : NotInSlot s)
    (hu : NoLoadedUse s reads) : branchIf s reads cond imm =
      .next (if cond then branchTo s (branchTarget s.pc imm) else notTaken s) :=
  (transferring_of_notInSlot _ hs).trans (reading_of_noUse _ hu)

/-- A branch whose computed condition says `p` is taken exactly on `p`. -/
theorem branchesOn_of_branchIf {i : Instr} {s : State} {reads : List RegName} {cond : Bool} {imm : Imm} {p : Prop}
    (hs : NotInSlot s) (hu : NoLoadedUse s reads) (he : exec i s = branchIf s reads cond imm)
    (hp : cond = true ↔ p) : BranchesOn i s imm p := by
  have hnext := he.trans (branchIf_eq_next hs hu)
  refine ⟨fun h => ?taken, fun h => ?notTaken⟩
  case taken => exact branchTo_jumps (hnext.trans (by rw [if_pos (hp.2 h)]))
  case notTaken => exact notTaken_fallsThrough (hnext.trans (by rw [if_neg (mt hp.1 h)]))

end Sys2Proof.Machine
end

section
/-! The statement of 44_itype_branch.md. -/

namespace Sys2Proof.Machine

/-- Settles O27: each branch is `branchIf` on a computed condition, which for the comparisons with zero is the
condition on bit 31 and for `beq` and `bne` the equality of the words. -/
theorem conditionalBranches : Obligations.ConditionalBranches := by
  unfold Obligations.ConditionalBranches
  intro s rs rt imm hs
  refine ⟨rfl, rfl, rfl, rfl, rfl, rfl, fun hu => ⟨?bltz, ?bgez, ?blez, ?bgtz⟩, fun hu => ⟨?beq, ?bne⟩⟩
  case bltz => exact branchesOn_of_branchIf hs hu rfl (decide_eq_true_iff.trans (toInt_neg_iff_bit31 _))
  case bgez => exact branchesOn_of_branchIf hs hu rfl (decide_eq_true_iff.trans (toInt_nonneg_iff_bit31 _))
  case blez => exact branchesOn_of_branchIf hs hu rfl (decide_eq_true_iff.trans (toInt_nonpos_iff_bit31 _))
  case bgtz => exact branchesOn_of_branchIf hs hu rfl (decide_eq_true_iff.trans (toInt_pos_iff_bit31 _))
  case beq => exact branchesOn_of_branchIf hs hu rfl beq_iff_eq
  case bne => exact branchesOn_of_branchIf hs hu rfl bne_iff_ne

end Sys2Proof.Machine
end

section
/-! What a load writes and a store stores once the checks before the access have passed, and the stops of these checks
(45_itype_load_store.md R180 to R190). -/

namespace Sys2Proof.Machine

/-! ## The value of the bytes an access reads (20_memory.md R53) -/

section
variable {m : Memory} {a : Word} (e : Endian)

theorem readValue_one {b : Byte} (h : Memory.read m a.toNat = some b) :
    (readBytes m (accessAddrs a 1)).map (joinBytes e) = some b.toNat := by
  have hread : readBytes m (accessAddrs a 1) = some [b] := by simp [accessAddrs, readBytes, h]
  cases e <;> simp [hread, joinBytes, leValue]

theorem readValue_two {b0 b1 : Byte} (h0 : Memory.read m a.toNat = some b0)
    (h1 : Memory.read m (a + 1#32).toNat = some b1) :
    (readBytes m (accessAddrs a 2)).map (joinBytes e) = some (if e = .big then b0 ++ b1 else b1 ++ b0).toNat := by
  have hread : readBytes m (accessAddrs a 2) = some [b0, b1] := by simp only [accessAddrs, readBytes, h0, h1]
  obtain ⟨hlittle, hbig⟩ := joinBytes_two b0 b1
  cases e with
  | big => simp [hread, hbig]
  | little => simp [hread, hlittle]

theorem readValue_four {b0 b1 b2 b3 : Byte} (h0 : Memory.read m a.toNat = some b0)
    (h1 : Memory.read m (a + 1#32).toNat = some b1) (h2 : Memory.read m (a + 2#32).toNat = some b2)
    (h3 : Memory.read m (a + 3#32).toNat = some b3) :
    (readBytes m (accessAddrs a 4)).map (joinBytes e) =
      some (if e = .big then b0 ++ b1 ++ b2 ++ b3 else b3 ++ b2 ++ b1 ++ b0).toNat := by
  have hread : readBytes m (accessAddrs a 4) = some [b0, b1, b2, b3] := by
    simp only [accessAddrs, readBytes, BitVec.add_assoc, BitVec.reduceAdd, h0, h1, h2, h3]
  obtain ⟨hlittle, hbig⟩ := joinBytes_four b0 b1 b2 b3
  cases e with
  | big => simp [hread, hbig]
  | little => simp [hread, hlittle]

end

theorem signExtendBytes_toNat (n : Nat) (v : BitVec (8 * n)) : signExtendBytes n v.toNat = v.signExtend 32 := by
  rw [signExtendBytes, BitVec.ofNat_toNat, BitVec.setWidth_eq]

theorem zeroExtendBytes_toNat (n : Nat) (v : BitVec (8 * n)) : zeroExtendBytes n v.toNat = v.setWidth 32 := by
  rw [zeroExtendBytes, BitVec.ofNat_toNat, BitVec.setWidth_eq]

/-! ## One byte -/

theorem allBytesIn_one {l : AddrSet} {a : Word} : AllBytesIn l a 1 ↔ inSet l a.toNat = true := by
  simp only [AllBytesIn, Nat.lt_one_iff, forall_eq, BitVec.add_zero]

theorem noByteIn_one {l : AddrSet} {a : Word} : NoByteIn l a 1 ↔ inSet l a.toNat = false := by
  simp only [NoByteIn, Nat.lt_one_iff, forall_eq, BitVec.add_zero]

/-! ## The stops of an access that its guards let act (45_itype_load_store.md R190) -/

section
variable {i : Instr} {s : State} {rs : Reg} {imm : Imm} {n : Nat}

theorem stops_of_misaligned_load (ha : dataAccess i = some ⟨false, rs, imm, n⟩) (hm : MayAccess i s)
    (hal : (readX s rs + imm.signExtend 32).toNat % n ≠ 0) :
    Stops i s (.addressErrorLoad (readX s rs + imm.signExtend 32)) :=
  misalignedDataAccess.2.1 i s _ ha hm hal

theorem stops_of_misaligned_store (ha : dataAccess i = some ⟨true, rs, imm, n⟩) (hm : MayAccess i s)
    (hal : (readX s rs + imm.signExtend 32).toNat % n ≠ 0) :
    Stops i s (.addressErrorStore (readX s rs + imm.signExtend 32)) :=
  misalignedDataAccess.2.1 i s _ ha hm hal

theorem stops_of_unallocated {d : Bool} (ha : dataAccess i = some ⟨d, rs, imm, n⟩) (hm : MayAccess i s)
    (hal : (readX s rs + imm.signExtend 32).toNat % n = 0)
    (hin : ¬AllBytesIn s.params.memAlloc (readX s rs + imm.signExtend 32) n) :
    Stops i s (.unallocatedAccess (readX s rs + imm.signExtend 32)) :=
  unallocatedAccessRaises.1 i s _ ha hm hal hin

theorem refused_of_store_into_text (ha : dataAccess i = some ⟨true, rs, imm, n⟩) (hm : MayAccess i s)
    (hal : (readX s rs + imm.signExtend 32).toNat % n = 0)
    (hin : AllBytesIn s.params.memAlloc (readX s rs + imm.signExtend 32) n)
    (htext : ¬NoByteIn s.params.text (readX s rs + imm.signExtend 32) n) :
    exec i s = .refused (.storeIntoText (readX s rs + imm.signExtend 32)) :=
  textIsReadOnly.1 i s _ ha rfl hm hal hin htext

end

/-! ## Loads -/

section
variable {i : Instr} {s : State} {rt : Reg} {ea : Word} {n w : Nat} {v : Word}

/-- A load that passes its checks goes on with the value of its bytes. -/
theorem load_of_readValue {k : Nat → Result} (hal : ea.toNat % n = 0) (hin : AllBytesIn s.params.memAlloc ea n)
    (hw : (readBytes s.mem (accessAddrs ea n)).map (joinBytes s.params.endian) = some w) : load s ea n k = k w := by
  obtain ⟨bs, hread, rfl⟩ := Option.map_eq_some_iff.1 hw
  rw [load, if_pos ((aligned_iff _ _).2 hal), memRead, if_pos ((allIn_iff _ _ _).2 hin), hread]

/-- A load into a general register writes the extension of the value of its bytes. -/
theorem writesX_of_loadX {reads : List RegName} {ext : Nat → Nat → Word} (hu : NoLoadedUse s reads)
    (he : exec i s = reading s reads (loadX s rt ea n ext)) (hal : ea.toNat % n = 0)
    (hin : AllBytesIn s.params.memAlloc ea n)
    (hw : (readBytes s.mem (accessAddrs ea n)).map (joinBytes s.params.endian) = some w) (hv : ext n w = v) :
    WritesX i s rt v (if rt = 0#5 then none else some (.gpr rt)) := by
  subst hv
  exact completeLoad_writesX (he.trans ((reading_of_noUse _ hu).trans (load_of_readValue hal hin hw)))

end

/-! ## Stores -/

section
variable {i : Instr} {s : State} {rs : Reg} {imm : Imm} {ea v : Word} {n : Nat}

/-- What is stored, and what a store leaves as it was (20_memory.md R54, R59). -/
theorem stores_of_complete (hn : n ≤ 4294967296) (he : exec i s = complete (storeBytes s ea n v)) :
    Stores i s ea n v := by
  refine ⟨_, he, fun k hk => ?_, fun c hc => ?_, fun r => ?_, fun r => ?_, ?_, ?_, ?_⟩
  · rw [nextInstr_mem]
    exact read_storeBytes_inside hn hk
  · rw [nextInstr_mem]
    exact read_storeBytes_outside hc
  · simp
  · simp
  · simp [HiLoSame]
  · simp
  · exact nextInstr_wentOn (by simp) (by simp) (by simp) (by simp) (by simp)

/-- The outcomes of a store in the order of its checks, each under its condition (45_itype_load_store.md R190). -/
theorem store_outcomes (hn : n ≤ 4294967296) (ha : dataAccess i = some ⟨true, rs, imm, n⟩) (hm : MayAccess i s)
    (hea : ea = readX s rs + imm.signExtend 32) (he : exec i s = store s ea n v) :
    (ea.toNat % n ≠ 0 → Stops i s (.addressErrorStore ea)) ∧
    (ea.toNat % n = 0 → ¬AllBytesIn s.params.memAlloc ea n → Stops i s (.unallocatedAccess ea)) ∧
    (ea.toNat % n = 0 → AllBytesIn s.params.memAlloc ea n → ¬NoByteIn s.params.text ea n →
      exec i s = .refused (.storeIntoText ea)) ∧
    (ea.toNat % n = 0 → AllBytesIn s.params.memAlloc ea n → NoByteIn s.params.text ea n → Stores i s ea n v) := by
  subst hea
  refine ⟨stops_of_misaligned_store ha hm, stops_of_unallocated ha hm, refused_of_store_into_text ha hm,
    fun hal hin htext => stores_of_complete hn ?_⟩
  rw [he, store, if_pos ((aligned_iff _ _).2 hal), if_pos ((allIn_iff _ _ _).2 hin),
    (someIn_eq_false_iff _ _ _).2 htext, if_neg Bool.false_ne_true]

end

/-! ## Coprocessor 1 -/

theorem stops_of_cp1_unusable {i : Instr} {s : State} {k : Result} (he : exec i s = usingCp1 s k)
    (hc : s.params.cp1Usable = false) : Stops i s (.coprocessorUnusable 1) := by
  rw [Stops, he, usingCp1_of_unusable _ hc]
  exact raise_stopsWith s _

/-- The guards of an instruction of coprocessor 1 that let it act. -/
theorem exec_of_usable {i : Instr} {s : State} {reads : List RegName} {k : Result}
    (hc : s.params.cp1Usable = true) (hu : NoLoadedUse s reads) (he : exec i s = usingCp1 s (reading s reads k)) :
    exec i s = k :=
  he.trans ((usingCp1_of_usable _ hc).trans (reading_of_noUse _ hu))

end Sys2Proof.Machine
end

section
/-! The statements of 45_itype_load_store.md. -/

namespace Sys2Proof.Machine

/-- Settles O35: alignment, then allocation, then the four bytes joined by `ENDIAN`; `lwc1` checks coprocessor 1 first. -/
theorem loadWords : Obligations.LoadWords := by
  unfold Obligations.LoadWords
  rintro s rt rs imm _ hu rfl
  have hlw : MayAccess (.lw rt imm rs) s := ⟨nofun, hu⟩
  have hlwc1 (hc : s.params.cp1Usable = true) : MayAccess (.lwc1 rt imm rs) s := ⟨fun _ => hc, hu⟩
  refine ⟨rfl, rfl, stops_of_cp1_unusable rfl, fun hal => ?misaligned, fun hal hin => ?unallocated, ?loads⟩
  case misaligned =>
    exact ⟨stops_of_misaligned_load rfl hlw hal, fun hc => stops_of_misaligned_load rfl (hlwc1 hc) hal⟩
  case unallocated =>
    exact ⟨stops_of_unallocated rfl hlw hal hin, fun hc => stops_of_unallocated rfl (hlwc1 hc) hal hin⟩
  case loads =>
    rintro b0 b1 b2 b3 v hal hin h0 h1 h2 h3 rfl
    have hread := readValue_four s.params.endian h0 h1 h2 h3
    have hcopy (v : Word) : zeroExtendBytes 4 v.toNat = v := (zeroExtendBytes_toNat 4 v).trans (BitVec.setWidth_eq v)
    refine ⟨writesX_of_loadX hu rfl hal hin hread (hcopy _), fun hc => completeLoad_writesF ?_⟩
    exact (exec_of_usable hc hu rfl).trans ((load_of_readValue hal hin hread).trans (by rw [hcopy]))

/-- Settles O33: a byte has no alignment, and its value is the byte itself. -/
theorem loadBytes : Obligations.LoadBytes := by
  unfold Obligations.LoadBytes
  rintro s rt rs imm _ hu rfl
  refine ⟨rfl, rfl, fun hout => ?stops, fun b hin h => ?loads⟩
  case stops =>
    have hno : ¬AllBytesIn s.params.memAlloc (readX s rs + imm.signExtend 32) 1 :=
      mt allBytesIn_one.1 (Bool.eq_false_iff.1 hout)
    exact ⟨stops_of_unallocated rfl ⟨nofun, hu⟩ (Nat.mod_one _) hno,
      stops_of_unallocated rfl ⟨nofun, hu⟩ (Nat.mod_one _) hno⟩
  case loads =>
    have hread := readValue_one s.params.endian h
    exact ⟨writesX_of_loadX hu rfl (Nat.mod_one _) (allBytesIn_one.2 hin) hread (signExtendBytes_toNat 1 b),
      writesX_of_loadX hu rfl (Nat.mod_one _) (allBytesIn_one.2 hin) hread (zeroExtendBytes_toNat 1 b)⟩

/-- Settles O34: alignment, then allocation, then the two bytes joined by `ENDIAN` and extended. -/
theorem loadHalfwords : Obligations.LoadHalfwords := by
  unfold Obligations.LoadHalfwords
  rintro s rt rs imm _ hu rfl
  have hlh : MayAccess (.lh rt imm rs) s := ⟨nofun, hu⟩
  have hlhu : MayAccess (.lhu rt imm rs) s := ⟨nofun, hu⟩
  refine ⟨rfl, rfl, fun hal => ?misaligned, fun hal hin => ?unallocated, ?loads⟩
  case misaligned => exact ⟨stops_of_misaligned_load rfl hlh hal, stops_of_misaligned_load rfl hlhu hal⟩
  case unallocated => exact ⟨stops_of_unallocated rfl hlh hal hin, stops_of_unallocated rfl hlhu hal hin⟩
  case loads =>
    rintro b0 b1 v hal hin h0 h1 rfl
    have hread := readValue_two s.params.endian h0 h1
    exact ⟨writesX_of_loadX hu rfl hal hin hread (signExtendBytes_toNat 2 _),
      writesX_of_loadX hu rfl hal hin hread (zeroExtendBytes_toNat 2 _)⟩

/-- Settles O36: the outcomes of a store of two bytes, and of one byte, which has no alignment. -/
theorem storeBytesAndHalfwords : Obligations.StoreBytesAndHalfwords := by
  unfold Obligations.StoreBytesAndHalfwords
  intro s rt rs imm ea hu hea
  have hmsb : MayAccess (.sb rt imm rs) s := ⟨nofun, hu⟩
  have hmsh : MayAccess (.sh rt imm rs) s := ⟨nofun, hu⟩
  have hsb : exec (.sb rt imm rs) s = store s ea 1 (readX s rt) := hea ▸ reading_of_noUse _ hu
  have hsh : exec (.sh rt imm rs) s = store s ea 2 (readX s rt) := hea ▸ reading_of_noUse _ hu
  obtain ⟨-, hunallocated, hrefused, hstores⟩ := store_outcomes (by decide) rfl hmsb hea hsb
  simp only [allBytesIn_one, noByteIn_one, Bool.not_eq_true, Bool.not_eq_false] at hunallocated hrefused hstores
  have hal := Nat.mod_one ea.toNat
  exact ⟨rfl, rfl, hunallocated hal, hrefused hal, hstores hal, store_outcomes (by decide) rfl hmsh hea hsh⟩

/-- Settles O37: the outcomes of a store of four bytes; `swc1` checks coprocessor 1 first. -/
theorem storeWords : Obligations.StoreWords := by
  unfold Obligations.StoreWords
  intro s rt rs imm ea hea
  refine ⟨rfl, rfl, fun hu => ?sw, stops_of_cp1_unusable rfl, fun hc hu => ?swc1⟩
  case sw => exact store_outcomes (by decide) rfl ⟨nofun, hu⟩ hea (hea ▸ reading_of_noUse _ hu)
  case swc1 => exact store_outcomes (by decide) rfl ⟨fun _ => hc, hu⟩ hea (hea ▸ exec_of_usable hc hu rfl)

end Sys2Proof.Machine
end

section
/-! Region jumps: `j` and `jal` read no register, so outside a delay slot both complete (46_jtype.md R195, R196). -/

namespace Sys2Proof.Machine

section
variable {s : State} {target : Target}

theorem exec_j (hs : NotInSlot s) : exec (.j target) s = .next (branchTo s (jumpTarget s.pc target)) :=
  transferring_of_notInSlot _ hs

theorem exec_jal (hs : NotInSlot s) :
    exec (.jal target) s = .next (branchTo (writeX s 31#5 (linkAddr s)) (jumpTarget s.pc target)) :=
  transferring_of_notInSlot _ hs

end

end Sys2Proof.Machine
end

section
/-! The statement of 46_jtype.md. -/

namespace Sys2Proof.Machine

/-- Settles O29: the region target is `jumpTarget` and the link is `linkAddr`, so each jump is the shared transfer to
it, for `jal` after the write of register 31. -/
theorem regionJumps : Obligations.RegionJumps := by
  unfold Obligations.RegionJumps
  intro s target hs
  refine ⟨⟨rfl, ?j⟩, rfl, ?jal⟩
  case j => exact branchTo_jumps (exec_j hs)
  case jal => exact branchTo_links (exec_jal hs)

end Sys2Proof.Machine
end

section
/-! The fields of a single as numbers, the pattern packed from a sign and 31 low bits, and the reversal of the sign
(47_cp1_float.md R209). -/

namespace Sys2Proof.Machine

/-! ## The fields -/

theorem fpSign_eq (w : Word) : fpSign w = decide (2147483648 ≤ w.toNat) := by
  rw [fpSign, getLsbD_31, BitVec.msb_eq_decide]

theorem fpExp_eq (w : Word) : fpExp w = w.toNat / 8388608 % 256 := by
  rw [fpExp, BitVec.extractLsb'_toNat, Nat.shiftRight_eq_div_pow]

theorem fpFrac_eq (w : Word) : fpFrac w = w.toNat % 8388608 := by
  rw [fpFrac, BitVec.extractLsb'_toNat, Nat.shiftRight_zero]

theorem fpFrac_lt (w : Word) : fpFrac w < 8388608 := (w.extractLsb' 0 23).isLt

@[simp] theorem isNaN_eq_true {w : Word} : isNaN w = true ↔ fpExp w = 255 ∧ fpFrac w ≠ 0 := by simp [isNaN]

@[simp] theorem isInf_eq_true {w : Word} : isInf w = true ↔ fpExp w = 255 ∧ fpFrac w = 0 := by simp [isInf]

@[simp] theorem isZero_eq_true {w : Word} : isZero w = true ↔ fpExp w = 0 ∧ fpFrac w = 0 := by simp [isZero]

theorem isFinite_iff {w : Word} : IsFinite w ↔ fpExp w ≠ 255 := by
  rw [IsFinite, ← Bool.not_eq_true, ← Bool.not_eq_true, isNaN_eq_true, isInf_eq_true]
  by_cases h : fpFrac w = 0 <;> simp [h]

theorem isZero_eq_false_of_isInf {w : Word} (h : isInf w = true) : isZero w = false := by
  rw [← Bool.not_eq_true, isZero_eq_true, (isInf_eq_true.1 h).1]
  simp

theorem isNaN_eq_false_of_isInf {w : Word} (h : isInf w = true) : isNaN w = false := by
  rw [← Bool.not_eq_true, isNaN_eq_true, (isInf_eq_true.1 h).2]
  simp

theorem isFinite_of_isZero {w : Word} (h : isZero w = true) : IsFinite w := by
  rw [isFinite_iff, (isZero_eq_true.1 h).1]
  decide

/-- A single is a zero exactly when its magnitude is 0. -/
theorem fpMag_eq_zero {w : Word} : fpMag w = 0 ↔ isZero w = true := by
  rw [isZero_eq_true, fpMag]
  split
  next h => simp [h]
  next h => simp [h]

/-! ## The value -/

theorem natAbs_fpValue (w : Word) : (fpValue w).natAbs = fpMag w := by
  unfold fpValue
  split <;> simp

theorem fpValue_eq_zero {w : Word} : fpValue w = 0 ↔ isZero w = true := by
  rw [← Int.natAbs_eq_zero, natAbs_fpValue, fpMag_eq_zero]

theorem fpSign_eq_decide {w : Word} (h : fpValue w ≠ 0) : fpSign w = decide (fpValue w < 0) := by
  have hm : fpMag w ≠ 0 := natAbs_fpValue w ▸ Int.natAbs_ne_zero.2 h
  unfold fpValue
  cases fpSign w
  case false => simp
  case true => simpa using Nat.pos_of_ne_zero hm

/-- The sign of a product of two values, neither 0. -/
theorem fpSign_bne_eq_decide {a b : Word} (h : fpValue a * fpValue b ≠ 0) :
    (fpSign a != fpSign b) = decide (fpValue a * fpValue b < 0) := by
  obtain ⟨ha, hb⟩ := mul_ne_zero_iff.1 h
  rw [fpSign_eq_decide ha, fpSign_eq_decide hb, Bool.eq_iff_iff, decide_eq_true_eq, mul_neg_iff, bne_iff_ne, Ne,
    decide_eq_decide]
  omega

/-! ## The packed pattern -/

section
variable {neg : Bool} {bits : Nat}

theorem fpPack_toNat (h : bits < 2147483648) :
    (fpPack neg bits).toNat = if neg then 2147483648 + bits else bits := by
  rw [fpPack, BitVec.toNat_ofNat, Nat.mod_eq_of_lt]
  split <;> omega

theorem fpSign_fpPack (h : bits < 2147483648) : fpSign (fpPack neg bits) = neg := by
  rw [fpSign_eq, fpPack_toNat h]
  cases neg <;> simp [h]

theorem fpExp_fpPack (h : bits < 2147483648) : fpExp (fpPack neg bits) = bits / 8388608 := by
  rw [fpExp_eq, fpPack_toNat h]
  split <;> omega

theorem fpFrac_fpPack (h : bits < 2147483648) : fpFrac (fpPack neg bits) = bits % 8388608 := by
  rw [fpFrac_eq, fpPack_toNat h]
  split <;> omega

theorem isFinite_fpPack (h : bits < 0x7F800000) : IsFinite (fpPack neg bits) := by
  rw [isFinite_iff, fpExp_fpPack (by omega)]
  omega

@[simp] theorem fpSign_fpInf : fpSign (fpInf neg) = neg := fpSign_fpPack (by decide)

@[simp] theorem fpSign_fpZero : fpSign (fpZero neg) = neg := fpSign_fpPack (by decide)

theorem isInf_fpInf : isInf (fpInf neg) = true :=
  isInf_eq_true.2 ⟨fpExp_fpPack (by decide), fpFrac_fpPack (by decide)⟩

/-- The magnitude of a significand `m` at spacing `2^k`: when the significand reaches `2^24`, the carry into the exponent
field doubles the spacing. -/
theorem fpMag_fpPack {k m : Nat} (hk : k = 0 ∨ 8388608 ≤ m) (hm : m ≤ 16777216)
    (h : k * 8388608 + m < 0x7F800000) : fpMag (fpPack neg (k * 8388608 + m)) = m * 2 ^ k := by
  rw [fpMag, fpExp_fpPack (by omega), fpFrac_fpPack (by omega)]
  by_cases hsub : m < 8388608
  · obtain rfl : k = 0 := by omega
    rw [if_pos (by omega)]
    omega
  by_cases hcarry : m = 16777216
  · subst hcarry
    rw [if_neg (by omega), (by omega : (k * 8388608 + 16777216) / 8388608 - 1 = k + 1),
      (by omega : (k * 8388608 + 16777216) % 8388608 = 0), pow_succ]
    omega
  · rw [if_neg (by omega), (by omega : (k * 8388608 + m) / 8388608 - 1 = k),
      (by omega : 8388608 + (k * 8388608 + m) % 8388608 = m)]

end

/-! ## The sign reversed -/

theorem fpSign_flip (w : Word) : fpSign (w ^^^ 0x80000000#32) = !fpSign w := by
  rw [fpSign, BitVec.getLsbD_xor]
  exact Bool.xor_true _

theorem fpExp_flip (w : Word) : fpExp (w ^^^ 0x80000000#32) = fpExp w := by
  rw [fpExp, BitVec.extractLsb'_xor, (by decide : (0x80000000#32).extractLsb' 23 8 = 0#8), BitVec.xor_zero, fpExp]

theorem fpFrac_flip (w : Word) : fpFrac (w ^^^ 0x80000000#32) = fpFrac w := by
  rw [fpFrac, BitVec.extractLsb'_xor, (by decide : (0x80000000#32).extractLsb' 0 23 = 0#23), BitVec.xor_zero, fpFrac]

@[simp] theorem isNaN_flip (w : Word) : isNaN (w ^^^ 0x80000000#32) = isNaN w := by
  rw [isNaN, fpExp_flip, fpFrac_flip, isNaN]

@[simp] theorem isInf_flip (w : Word) : isInf (w ^^^ 0x80000000#32) = isInf w := by
  rw [isInf, fpExp_flip, fpFrac_flip, isInf]

theorem isFinite_flip {w : Word} : IsFinite (w ^^^ 0x80000000#32) ↔ IsFinite w := by
  rw [isFinite_iff, fpExp_flip, isFinite_iff]

theorem fpValue_flip (w : Word) : fpValue (w ^^^ 0x80000000#32) = -fpValue w := by
  rw [fpValue, fpValue, fpMag, fpMag, fpSign_flip, fpExp_flip, fpFrac_flip]
  cases fpSign w <;> simp

/-! ## Which magnitudes are singles -/

/-- A finite single at or above `2^(23+k)` is a whole multiple of `2^k`. -/
theorem dvd_fpMag {v : Word} {k : Nat} (h : 2 ^ (23 + k) ≤ fpMag v) : 2 ^ k ∣ fpMag v := by
  have hfrac := fpFrac_lt v
  have hbase : 2 ^ 23 ≤ 2 ^ (23 + k) := Nat.pow_le_pow_right (by decide) (by omega)
  unfold fpMag at h ⊢
  split at h
  next => omega
  next hexp =>
    rw [if_neg hexp]
    have hlt : 2 ^ (23 + k) < 2 ^ (24 + (fpExp v - 1)) := by
      rw [Nat.pow_add 2 24]
      exact h.trans_lt (Nat.mul_lt_mul_of_pos_right (by omega) (Nat.two_pow_pos _))
    have hk := (Nat.pow_lt_pow_iff_right (by decide : 1 < 2)).1 hlt
    exact Dvd.dvd.mul_left (Nat.pow_dvd_pow 2 (by omega)) _

/-- A number of at most 24 significant bits is the magnitude of a single of either sign. -/
theorem exists_single (neg : Bool) {m k : Nat} (hm : m ≤ 16777216) (hk : k ≤ 252) :
    ∃ v, IsFinite v ∧ fpSign v = neg ∧ fpMag v = m * 2 ^ k := by
  induction k generalizing m with
  | zero =>
    exact ⟨fpPack neg (0 * 8388608 + m), isFinite_fpPack (by omega), fpSign_fpPack (by omega),
      fpMag_fpPack (.inl rfl) hm (by omega)⟩
  | succ k ih =>
    by_cases hsmall : m < 8388608
    · obtain ⟨v, hv, hs, hmag⟩ := ih (m := m * 2) (by omega) (by omega)
      exact ⟨v, hv, hs, by rw [hmag, pow_succ']; ring⟩
    · exact ⟨fpPack neg ((k + 1) * 8388608 + m), isFinite_fpPack (by omega), fpSign_fpPack (by omega),
        fpMag_fpPack (.inr (by omega)) hm (by omega)⟩

end Sys2Proof.Machine
end

section
/-! Rounding to single precision: `roundSingle` meets `RoundsTo` (47_cp1_float.md R210). A magnitude is `num / den`, and
all is said of whole numbers after multiplication by `den`. -/

namespace Sys2Proof.Machine

/-! ## The nearest whole number -/

/-- How far `x` is from `num / den`, times `den`. -/
def magError (x num den : Nat) : Nat := ((x : Int) * den - num).natAbs

section
variable {num d : Nat}

theorem divNearestEven_eq (num d : Nat) : divNearestEven num d =
    if d < 2 * (num % d) ∨ (2 * (num % d) = d ∧ num / d % 2 = 1) then num / d + 1 else num / d := rfl

theorem divNearestEven_bounds (num d : Nat) :
    num / d ≤ divNearestEven num d ∧ divNearestEven num d ≤ num / d + 1 := by
  rw [divNearestEven_eq]
  split <;> simp

/-- Where the multiple `j * d` lies, by where `j` lies among `q` and `q + 1`. -/
theorem mul_gaps (q j d : Nat) : (j = q → j * d = q * d) ∧ (j = q + 1 → j * d = q * d + d) ∧
    (j + 1 ≤ q → j * d + d ≤ q * d) ∧ (q + 2 ≤ j → q * d + 2 * d ≤ j * d) := by
  rw [← Nat.succ_mul, ← Nat.succ_mul, ← Nat.add_mul]
  exact ⟨(· ▸ rfl), (· ▸ rfl), Nat.mul_le_mul_right d, Nat.mul_le_mul_right d⟩

/-- `divNearestEven` is at least as near as any whole number `j`, and even if `j` is another as near. -/
theorem divNearestEven_nearest (hd : 0 < d) (j : Nat) :
    magError (divNearestEven num d) num d ≤ magError j num d ∧
    (magError j num d = magError (divNearestEven num d) num d → j ≠ divNearestEven num d →
      divNearestEven num d % 2 = 0) := by
  have hnum : num / d * d + num % d = num := Nat.div_add_mod' num d
  have hr : num % d < d := Nat.mod_lt _ hd
  have hgaps := mul_gaps (num / d) j d
  rw [divNearestEven_eq]
  simp only [magError, ← Nat.cast_mul]
  split
  case isTrue =>
    rw [Nat.succ_mul]
    omega
  case isFalse => omega

/-- An even whole number `j` is reached from half a unit below it on. -/
theorem le_divNearestEven_iff (hd : 0 < d) {j : Nat} (hj : 0 < j) (heven : j % 2 = 0) :
    j ≤ divNearestEven num d ↔ (2 * j - 1) * d ≤ 2 * num := by
  have hnum : num / d * d + num % d = num := Nat.div_add_mod' num d
  have hr : num % d < d := Nat.mod_lt _ hd
  have hhalf : (2 * j - 1) * d + d = 2 * (j * d) := by
    rw [← Nat.succ_mul, (by omega : (2 * j - 1).succ = 2 * j), Nat.mul_assoc]
  have hgaps := mul_gaps (num / d) j d
  rw [divNearestEven_eq]
  split <;> omega

end

/-! ## Spacing, significand and bits -/

/-- The spacing of the singles around the whole part `q` of a magnitude is `2 ^ spacingExp q`. -/
def spacingExp (q : Nat) : Nat := if q < 16777216 then 0 else Nat.log2 q - 23

/-- The rounded significand, at most 24 bits long or `2^24`. -/
def significand (num den : Nat) : Nat := divNearestEven num (den * 2 ^ spacingExp (num / den))

/-- The 31 low bits of the rounded single. -/
def roundedBits (num den : Nat) : Nat := spacingExp (num / den) * 8388608 + significand num den

theorem roundSingle_eq (neg : Bool) (num den : Nat) : roundSingle neg num den =
    if 2 ^ 128 * 2 ^ 149 ≤ num / den then fpInf neg
    else if 0x7F800000 ≤ roundedBits num den then fpInf neg else fpPack neg (roundedBits num den) := rfl

theorem lt_two_pow_spacingExp (q : Nat) : q < 2 ^ (24 + spacingExp q) := by
  unfold spacingExp
  split
  next h => simpa using h
  next h =>
    have hlog : 24 ≤ q.log2 := (Nat.le_log2 (by omega)).2 (by omega)
    rw [(by omega : 24 + (q.log2 - 23) = q.log2 + 1)]
    exact Nat.lt_log2_self

theorem two_pow_spacingExp_le (q : Nat) : spacingExp q = 0 ∨ 2 ^ (23 + spacingExp q) ≤ q := by
  unfold spacingExp
  split
  next => exact .inl rfl
  next h =>
    have hlog : 24 ≤ q.log2 := (Nat.le_log2 (by omega)).2 (by omega)
    rw [(by omega : 23 + (q.log2 - 23) = q.log2)]
    exact .inr (Nat.log2_self_le (by omega))

section
variable {num den : Nat}

theorem div_spacing_lt (num den : Nat) : num / (den * 2 ^ spacingExp (num / den)) < 16777216 := by
  rw [← Nat.div_div_eq_div_mul, Nat.div_lt_iff_lt_mul (Nat.two_pow_pos _)]
  exact (lt_two_pow_spacingExp _).trans_eq (Nat.pow_add 2 24 _)

theorem significand_le (num den : Nat) : significand num den ≤ 16777216 := by
  obtain ⟨-, hle⟩ := divNearestEven_bounds num (den * 2 ^ spacingExp (num / den))
  exact hle.trans (div_spacing_lt num den)

theorem le_significand (num den : Nat) : spacingExp (num / den) = 0 ∨ 8388608 ≤ significand num den := by
  refine (two_pow_spacingExp_le (num / den)).imp_right fun hle => ?_
  have hq : 8388608 ≤ num / (den * 2 ^ spacingExp (num / den)) := by
    rw [← Nat.div_div_eq_div_mul, Nat.le_div_iff_mul_le (Nat.two_pow_pos _)]
    exact (Nat.pow_add 2 23 _).symm.trans_le hle
  exact hq.trans (divNearestEven_bounds num _).1

/-! ## Overflow -/

/-- The spacing at which only a carry overflows is `2^253`. -/
theorem overflow_at_top (hd : 0 < den) (hk : spacingExp (num / den) = 253) :
    0x7F800000 ≤ roundedBits num den ↔ (2 ^ 128 - 2 ^ 103) * 2 ^ 149 * den ≤ num := by
  have hcarry := le_divNearestEven_iff (num := num) (j := 16777216) (Nat.mul_pos hd (Nat.two_pow_pos 253))
    (by decide) (by decide)
  rw [roundedBits, significand, hk]
  omega

/-- Below it nothing overflows. -/
theorem no_overflow_below_top (hd : 0 < den) (hk : spacingExp (num / den) ≤ 252) :
    roundedBits num den < 0x7F800000 ∧ num < (2 ^ 128 - 2 ^ 103) * 2 ^ 149 * den := by
  have hm := significand_le num den
  have hlt : num / den < 2 ^ 24 * 2 ^ 252 :=
    calc num / den < 2 ^ (24 + spacingExp (num / den)) := lt_two_pow_spacingExp _
      _ = 2 ^ 24 * 2 ^ spacingExp (num / den) := Nat.pow_add ..
      _ ≤ 2 ^ 24 * 2 ^ 252 := Nat.mul_le_mul_left _ (Nat.pow_le_pow_right (by decide) hk)
  have hnum : num < 2 ^ 24 * 2 ^ 252 * den := (Nat.div_lt_iff_lt_mul hd).1 hlt
  rw [roundedBits]
  omega

/-- The result is infinite exactly from half a spacing below `2^128` on (47_cp1_float.md R210). -/
theorem overflow_iff (hd : 0 < den) :
    2 ^ 128 * 2 ^ 149 ≤ num / den ∨ 0x7F800000 ≤ roundedBits num den ↔ (2 ^ 128 - 2 ^ 103) * 2 ^ 149 * den ≤ num := by
  by_cases hq : 2 ^ 128 * 2 ^ 149 ≤ num / den
  · have hnum : 2 ^ 128 * 2 ^ 149 * den ≤ num := (Nat.le_div_iff_mul_le hd).1 hq
    exact iff_of_true (.inl hq) (by omega)
  have hk : spacingExp (num / den) ≤ 253 := by
    rcases two_pow_spacingExp_le (num / den) with h | h
    · omega
    · rw [← Nat.pow_add] at hq
      have hexp := (Nat.pow_lt_pow_iff_right (by decide : 1 < 2)).1 (h.trans_lt (Nat.lt_of_not_le hq))
      omega
  rw [or_iff_right hq]
  rcases Nat.lt_or_eq_of_le hk with hlow | htop
  · obtain ⟨hbits, hnum⟩ := no_overflow_below_top hd (Nat.le_of_lt_succ hlow)
    exact iff_of_false (Nat.not_le.2 hbits) (Nat.not_le.2 hnum)
  · exact overflow_at_top hd htop

theorem roundSingle_of_overflow (neg : Bool) (hd : 0 < den) (h : (2 ^ 128 - 2 ^ 103) * 2 ^ 149 * den ≤ num) :
    roundSingle neg num den = fpInf neg := by
  rw [roundSingle_eq]
  rcases (overflow_iff hd).2 h with hq | hbits
  · rw [if_pos hq]
  · rw [if_pos hbits, ite_self]

theorem roundSingle_of_no_overflow (neg : Bool) (hd : 0 < den) (h : ¬(2 ^ 128 - 2 ^ 103) * 2 ^ 149 * den ≤ num) :
    roundedBits num den < 0x7F800000 ∧ roundSingle neg num den = fpPack neg (roundedBits num den) := by
  obtain ⟨hq, hbits⟩ := not_or.1 (mt (overflow_iff hd).1 h)
  exact ⟨Nat.lt_of_not_le hbits, by rw [roundSingle_eq, if_neg hq, if_neg hbits]⟩

theorem fpSign_roundSingle (neg : Bool) (hd : 0 < den) : fpSign (roundSingle neg num den) = neg := by
  by_cases h : (2 ^ 128 - 2 ^ 103) * 2 ^ 149 * den ≤ num
  · rw [roundSingle_of_overflow neg hd h, fpSign_fpInf]
  · obtain ⟨hbits, he⟩ := roundSingle_of_no_overflow neg hd h
    rw [he, fpSign_fpPack (by omega)]

theorem roundSingle_zero (neg : Bool) : roundSingle neg 0 1 = fpZero neg := rfl

/-! ## The nearest single -/

theorem magError_mul (j k num den : Nat) : magError (j * 2 ^ k) num den = magError j num (den * 2 ^ k) := by
  unfold magError
  push_cast
  rw [mul_assoc, mul_comm (2 ^ k : Int)]

/-- The rounded significand is at least as near as every single, and even if another is as near: the singles at the
spacing are its multiples, and those of a finer spacing lie below all of them. -/
theorem significand_nearest (hd : 0 < den) (v : Word) :
    magError (significand num den * 2 ^ spacingExp (num / den)) num den ≤ magError (fpMag v) num den ∧
    (magError (fpMag v) num den = magError (significand num den * 2 ^ spacingExp (num / den)) num den →
      fpMag v ≠ significand num den * 2 ^ spacingExp (num / den) → significand num den % 2 = 0) := by
  have hnear := divNearestEven_nearest (num := num) (Nat.mul_pos hd (Nat.two_pow_pos (spacingExp (num / den))))
  rw [← significand] at hnear
  simp only [← magError_mul] at hnear
  by_cases hdvd : 2 ^ spacingExp (num / den) ∣ fpMag v
  · obtain ⟨j, hj⟩ := hdvd
    rw [mul_comm] at hj
    obtain ⟨hle, heven⟩ := hnear j
    rw [hj]
    exact ⟨hle, fun he hne => heven he fun h => hne (by rw [h])⟩
  · have hlt : fpMag v < 2 ^ (23 + spacingExp (num / den)) := Nat.lt_of_not_le (mt dvd_fpMag hdvd)
    have hq : 2 ^ (23 + spacingExp (num / den)) ≤ num / den :=
      (two_pow_spacingExp_le (num / den)).resolve_left fun hk => hdvd (by rw [hk]; exact Nat.one_dvd _)
    have hnum := (Nat.le_div_iff_mul_le hd).1 hq
    have hv := Nat.mul_lt_mul_of_pos_right hlt hd
    have hfar : magError (2 ^ (23 + spacingExp (num / den))) num den < magError (fpMag v) num den := by
      simp only [magError, ← Nat.cast_mul]
      omega
    have hle := (hnear (2 ^ 23)).1
    rw [← Nat.pow_add] at hle
    exact ⟨hle.trans hfar.le, fun he => absurd he (hle.trans_lt hfar).ne'⟩

/-- No single is nearer to the magnitude `num / den` than `w`, and the fraction of `w` is even if another is as near. -/
def NearestMag (w : Word) (num den : Nat) : Prop :=
  ∀ v, magError (fpMag w) num den ≤ magError (fpMag v) num den ∧
    (magError (fpMag v) num den = magError (fpMag w) num den → fpMag v ≠ fpMag w → fpFrac w % 2 = 0)

theorem fpPack_nearestMag (neg : Bool) (hd : 0 < den) (hbits : roundedBits num den < 0x7F800000) :
    NearestMag (fpPack neg (roundedBits num den)) num den := by
  intro v
  have hfrac : fpFrac (fpPack neg (roundedBits num den)) % 2 = significand num den % 2 := by
    rw [fpFrac_fpPack (by omega), roundedBits]
    omega
  rw [hfrac, roundedBits, fpMag_fpPack (le_significand num den) (significand_le num den) hbits]
  exact significand_nearest hd v

end

/-! ## Values with a sign -/

section
variable {w v : Word} {num : Int} {den : Nat}

/-- Of a single with the sign of the exact result, the error is that of the magnitudes. -/
theorem fpError_eq_magError (hs : num ≠ 0 → fpSign w = decide (num < 0)) :
    fpError w num den = magError (fpMag w) num.natAbs den := by
  unfold fpError magError fpValue
  rcases lt_trichotomy num 0 with h | rfl | h
  · rw [if_pos (by simp [hs h.ne, h]), Int.neg_mul]
    omega
  · cases fpSign w <;> simp
  · rw [if_neg (by simp [hs h.ne', h.le])]
    omega

theorem magError_le_fpError (v : Word) (num : Int) (den : Nat) :
    magError (fpMag v) num.natAbs den ≤ fpError v num den := by
  have hnonneg : 0 ≤ (fpMag v : Int) * den := by positivity
  unfold fpError magError fpValue
  split
  · rw [Int.neg_mul]
    omega
  · omega

/-- 0 is a single, so nothing else is the nearest to 0. -/
theorem NearestMag.fpValue_eq_zero (h : NearestMag w 0 den) (hd : 0 < den) : fpValue w = 0 := by
  have hle := (h 0#32).1
  rw [(by decide : fpMag 0#32 = 0)] at hle
  simp only [magError, Nat.cast_zero, Int.zero_mul, Int.sub_zero, Int.natAbs_zero, Nat.le_zero, Int.natAbs_eq_zero,
    mul_eq_zero, Nat.cast_eq_zero, hd.ne', or_false] at hle
  rw [← Int.natAbs_eq_zero, natAbs_fpValue, hle]

/-- As near as the nearest single `w` and of its magnitude is `w` alone: the opposite of a value that is not 0 is
farther from the exact result. -/
theorem NearestMag.fpValue_unique (h : NearestMag w num.natAbs den) (hd : 0 < den)
    (he : fpError v num den = fpError w num den) (hm : fpMag v = fpMag w) : fpValue v = fpValue w := by
  rw [← natAbs_fpValue, ← natAbs_fpValue] at hm
  rcases Int.natAbs_eq_natAbs_iff.1 hm with hv | hv
  · exact hv
  by_cases hnum : num = 0
  · rw [hnum] at h
    rw [hv, h.fpValue_eq_zero hd, neg_zero]
  · have hprod : fpValue w * den = 0 := by
      rw [fpError, fpError, hv, Int.neg_mul] at he
      omega
    have hw : fpValue w = 0 := (mul_eq_zero.1 hprod).resolve_right (by exact_mod_cast hd.ne')
    rw [hv, hw, neg_zero]

theorem NearestMag.nearest (h : NearestMag w num.natAbs den) (hd : 0 < den)
    (hs : num ≠ 0 → fpSign w = decide (num < 0)) (v : Word) :
    fpError w num den ≤ fpError v num den ∧
    (fpError v num den = fpError w num den → fpValue v ≠ fpValue w → fpFrac w % 2 = 0) := by
  obtain ⟨hle, heven⟩ := h v
  have hv := magError_le_fpError v num den
  have hw := fpError_eq_magError (den := den) hs
  refine ⟨by omega, fun htie hne => heven (by omega) fun hm => ?_⟩
  exact hne (h.fpValue_unique hd htie hm)

/-- The whole of R210: `roundSingle` with the sign of the exact result rounds it to the nearest single. -/
theorem roundSingle_roundsTo {neg : Bool} (hd : 0 < den) (hs : num ≠ 0 → neg = decide (num < 0)) :
    RoundsTo (roundSingle neg num.natAbs den) num den := by
  have hsign : num ≠ 0 → fpSign (roundSingle neg num.natAbs den) = decide (num < 0) := by
    rwa [fpSign_roundSingle neg hd]
  by_cases h : (2 ^ 128 - 2 ^ 103) * 2 ^ 149 * den ≤ num.natAbs
  · rw [roundSingle_of_overflow neg hd h] at hsign ⊢
    exact ⟨isNaN_eq_false_of_isInf isInf_fpInf, hsign, iff_of_true isInf_fpInf h,
      fun hn => absurd isInf_fpInf (Bool.eq_false_iff.1 hn)⟩
  · obtain ⟨hbits, he⟩ := roundSingle_of_no_overflow neg hd h
    rw [he] at hsign ⊢
    obtain ⟨hnan, hinf⟩ : IsFinite (fpPack neg (roundedBits num.natAbs den)) := isFinite_fpPack hbits
    exact ⟨hnan, hsign, iff_of_false (Bool.eq_false_iff.1 hinf) h,
      fun _ v _ => (fpPack_nearestMag neg hd hbits).nearest hd hsign v⟩

end

end Sys2Proof.Machine
end

section
/-! The default arithmetic by the kinds of its operands: what each operation is on finite operands, with an infinity, and
where it is invalid (47_cp1_float.md R210, R211). -/

namespace Sys2Proof.Machine

theorem fpOne_pos : 0 < fpOne := Nat.two_pow_pos 149

theorem isNaN_nanOf (bits : Word) : isNaN (nanOf bits) = true := by
  have hexp (c : Word) (hc : c.extractLsb' 23 8 = BitVec.allOnes 8) : fpExp (bits ||| c) = 255 := by
    rw [fpExp, BitVec.extractLsb'_or, hc, BitVec.or_allOnes]
    rfl
  rw [isNaN_eq_true, nanOf]
  split
  case isTrue hfrac =>
    have hzero : bits.extractLsb' 0 23 = 0#23 := BitVec.eq_of_toNat_eq hfrac
    refine ⟨hexp _ (by decide), ?_⟩
    rw [fpFrac, BitVec.extractLsb'_or, hzero]
    decide
  case isFalse hfrac =>
    refine ⟨hexp _ (by decide), ?_⟩
    rwa [fpFrac, BitVec.extractLsb'_or, (by decide : (0x7F800000#32).extractLsb' 0 23 = 0#23), BitVec.or_zero]

section
variable {a b nan : Word}

/-! ## Sums -/

theorem ieeeSum_of_isNaN (h : isNaN a = true ∨ isNaN b = true) : ieeeSum nan a b = nan := by
  rw [ieeeSum, if_pos (by rwa [Bool.or_eq_true])]

theorem ieeeSum_of_isInf_left (ha : isInf a = true) (hb : IsFinite b) : ieeeSum nan a b = a := by
  simp [ieeeSum, isNaN_eq_false_of_isInf ha, ha, hb.1, hb.2]

theorem ieeeSum_of_isInf_right (ha : IsFinite a) (hb : isInf b = true) : ieeeSum nan a b = b := by
  simp [ieeeSum, isNaN_eq_false_of_isInf hb, hb, ha.1, ha.2]

theorem ieeeSum_of_opposite_inf (ha : isInf a = true) (hb : isInf b = true) (h : fpSign a ≠ fpSign b) :
    ieeeSum nan a b = nan := by
  simp [ieeeSum, isNaN_eq_false_of_isInf ha, isNaN_eq_false_of_isInf hb, ha, hb, h]

/-- The sign of a sum that is 0 is the one both operands have, or plus. -/
theorem ieeeSum_of_cancel (ha : IsFinite a) (hb : IsFinite b) (h : fpValue a + fpValue b = 0) :
    ieeeSum nan a b = fpZero (fpSign a && fpSign b) := by
  simp [ieeeSum, ha.1, ha.2, hb.1, hb.2, h]

theorem ieeeSum_of_finite (ha : IsFinite a) (hb : IsFinite b) (h : fpValue a + fpValue b ≠ 0) :
    ieeeSum nan a b =
      roundSingle (decide (fpValue a + fpValue b < 0)) (fpValue a + fpValue b).natAbs 1 := by
  simp [ieeeSum, ha.1, ha.2, hb.1, hb.2, h]

theorem ieeeSum_roundsTo (ha : IsFinite a) (hb : IsFinite b) :
    RoundsTo (ieeeSum nan a b) (fpValue a + fpValue b) 1 := by
  by_cases h : fpValue a + fpValue b = 0
  · rw [ieeeSum_of_cancel ha hb h, h, ← roundSingle_zero]
    exact roundSingle_roundsTo (num := 0) Nat.one_pos (absurd rfl)
  · rw [ieeeSum_of_finite ha hb h]
    exact roundSingle_roundsTo Nat.one_pos fun _ => rfl

/-- `x + (-x)` is +0 for finite `x`. -/
theorem ieeeSum_flip (ha : IsFinite a) : ieeeSum nan a (a ^^^ 0x80000000#32) = 0#32 := by
  rw [ieeeSum_of_cancel ha (isFinite_flip.2 ha) (by rw [fpValue_flip, add_neg_cancel]), fpSign_flip, Bool.and_not_self]
  rfl

/-- Infinity plus a finite number, in either order. -/
theorem ieeeAdd_of_isInf (ha : isInf a = true) (hb : IsFinite b) : ieeeAdd a b = a ∧ ieeeAdd b a = a :=
  ⟨ieeeSum_of_isInf_left ha hb, ieeeSum_of_isInf_right hb ha⟩

theorem isNaN_ieeeSub_of_isInf (ha : isInf a = true) (hb : isInf b = true) (h : fpSign a = fpSign b) :
    isNaN (ieeeSub a b) = true := by
  rw [ieeeSub, ieeeSum_of_opposite_inf ha (by rwa [isInf_flip]) (by simp [fpSign_flip, h])]
  exact isNaN_nanOf _

theorem isNaN_ieeeAdd_of_isInf (ha : isInf a = true) (hb : isInf b = true) (h : fpSign a ≠ fpSign b) :
    isNaN (ieeeAdd a b) = true := by
  rw [ieeeAdd, ieeeSum_of_opposite_inf ha hb h]
  exact isNaN_nanOf _

theorem isNaN_ieeeAdd_of_isNaN (h : isNaN a = true ∨ isNaN b = true) : isNaN (ieeeAdd a b) = true := by
  rw [ieeeAdd, ieeeSum_of_isNaN h]
  exact isNaN_nanOf _

theorem isNaN_ieeeSub_of_isNaN (h : isNaN a = true ∨ isNaN b = true) : isNaN (ieeeSub a b) = true := by
  rw [ieeeSub, ieeeSum_of_isNaN (by rwa [isNaN_flip])]
  exact isNaN_nanOf _

/-! ## Products -/

/-- The operands a product has no value of. -/
def InvalidMul (a b : Word) : Prop :=
  isNaN a = true ∨ isNaN b = true ∨ (isInf a = true ∧ isZero b = true) ∨ (isZero a = true ∧ isInf b = true)

theorem isNaN_ieeeMul_of_invalid (h : InvalidMul a b) : isNaN (ieeeMul a b) = true := by
  rw [ieeeMul, if_pos (by simpa [InvalidMul, or_assoc] using h)]
  exact isNaN_nanOf _

theorem InvalidMul.symm (h : InvalidMul a b) : InvalidMul b a := by
  rcases h with ha | hb | ⟨ha, hb⟩ | ⟨ha, hb⟩
  · exact .inr (.inl ha)
  · exact .inl hb
  · exact .inr (.inr (.inr ⟨hb, ha⟩))
  · exact .inr (.inr (.inl ⟨hb, ha⟩))

theorem not_invalidMul_of_isInf (ha : isInf a = true) (hn : isNaN b = false) (hz : isZero b = false) :
    ¬InvalidMul a b := by
  rw [InvalidMul, isNaN_eq_false_of_isInf ha, isZero_eq_false_of_isInf ha, hn, hz]
  simp

theorem ieeeMul_of_isInf (h : ¬InvalidMul a b) (hi : isInf a = true ∨ isInf b = true) :
    ieeeMul a b = fpInf (fpSign a != fpSign b) := by
  rw [ieeeMul, if_neg (by simpa [InvalidMul, or_assoc] using h), if_pos (by rwa [Bool.or_eq_true])]

/-- Infinity times a number that is not 0, in either order. -/
theorem ieeeMul_of_isInf_of_not_zero (ha : isInf a = true) (hn : isNaN b = false) (hz : isZero b = false) :
    ieeeMul a b = fpInf (fpSign a != fpSign b) ∧ ieeeMul b a = fpInf (fpSign b != fpSign a) := by
  have h := not_invalidMul_of_isInf ha hn hz
  exact ⟨ieeeMul_of_isInf h (.inl ha), ieeeMul_of_isInf (mt InvalidMul.symm h) (.inr ha)⟩

theorem ieeeMul_of_finite (ha : IsFinite a) (hb : IsFinite b) :
    ieeeMul a b = roundSingle (fpSign a != fpSign b) (fpMag a * fpMag b) fpOne := by
  simp [ieeeMul, ha.1, ha.2, hb.1, hb.2]

theorem ieeeMul_roundsTo (ha : IsFinite a) (hb : IsFinite b) :
    RoundsTo (ieeeMul a b) (fpValue a * fpValue b) (2 ^ 149) := by
  rw [ieeeMul_of_finite ha hb, ← natAbs_fpValue, ← natAbs_fpValue, ← Int.natAbs_mul]
  exact roundSingle_roundsTo fpOne_pos fpSign_bne_eq_decide

theorem fpSign_ieeeMul (h : ¬InvalidMul a b) : fpSign (ieeeMul a b) = (fpSign a != fpSign b) := by
  have ha : isNaN a = false := Bool.eq_false_iff.2 fun hn => h (.inl hn)
  have hb : isNaN b = false := Bool.eq_false_iff.2 fun hn => h (.inr (.inl hn))
  by_cases hi : isInf a = true ∨ isInf b = true
  · rw [ieeeMul_of_isInf h hi, fpSign_fpInf]
  · obtain ⟨hia, hib⟩ := not_or.1 hi
    rw [ieeeMul_of_finite ⟨ha, Bool.eq_false_iff.2 hia⟩ ⟨hb, Bool.eq_false_iff.2 hib⟩, fpSign_roundSingle _ fpOne_pos]

/-! ## Quotients -/

/-- The operands a quotient has no value of. -/
def InvalidDiv (a b : Word) : Prop :=
  isNaN a = true ∨ isNaN b = true ∨ (isInf a = true ∧ isInf b = true) ∨ (isZero a = true ∧ isZero b = true)

theorem isNaN_ieeeDiv_of_invalid (h : InvalidDiv a b) : isNaN (ieeeDiv a b) = true := by
  rw [ieeeDiv, if_pos (by simpa [InvalidDiv, or_assoc] using h)]
  exact isNaN_nanOf _

theorem ieeeDiv_of_inf_or_zero (h : ¬InvalidDiv a b) (hi : isInf a = true ∨ isZero b = true) :
    ieeeDiv a b = fpInf (fpSign a != fpSign b) := by
  rw [ieeeDiv, if_neg (by simpa [InvalidDiv, or_assoc] using h), if_pos (by rwa [Bool.or_eq_true])]

theorem ieeeDiv_of_not_zero_of_zero (ha : IsFinite a) (hz : isZero a = false) (hb : isZero b = true) :
    ieeeDiv a b = fpInf (fpSign a != fpSign b) := by
  refine ieeeDiv_of_inf_or_zero ?_ (.inr hb)
  rw [InvalidDiv, ha.1, ha.2, hz, (isFinite_of_isZero hb).1]
  simp

theorem ieeeDiv_of_isInf_right (ha : IsFinite a) (hb : isInf b = true) :
    ieeeDiv a b = fpZero (fpSign a != fpSign b) := by
  simp [ieeeDiv, ha.1, ha.2, hb, isNaN_eq_false_of_isInf hb, isZero_eq_false_of_isInf hb]

theorem ieeeDiv_of_finite (ha : IsFinite a) (hb : IsFinite b) (hz : isZero b = false) :
    ieeeDiv a b = roundSingle (fpSign a != fpSign b) (fpMag a * fpOne) (fpMag b) := by
  simp [ieeeDiv, ha.1, ha.2, hb.1, hb.2, hz]

theorem fpSign_ieeeDiv (h : ¬InvalidDiv a b) : fpSign (ieeeDiv a b) = (fpSign a != fpSign b) := by
  have ha : isNaN a = false := Bool.eq_false_iff.2 fun hn => h (.inl hn)
  have hb : isNaN b = false := Bool.eq_false_iff.2 fun hn => h (.inr (.inl hn))
  by_cases hi : isInf a = true ∨ isZero b = true
  · rw [ieeeDiv_of_inf_or_zero h hi, fpSign_fpInf]
  obtain ⟨hia, hzb⟩ := not_or.1 hi
  have hfa : IsFinite a := ⟨ha, Bool.eq_false_iff.2 hia⟩
  by_cases hib : isInf b = true
  · rw [ieeeDiv_of_isInf_right hfa hib, fpSign_fpZero]
  · rw [ieeeDiv_of_finite hfa ⟨hb, Bool.eq_false_iff.2 hib⟩ (Bool.eq_false_iff.2 hzb),
      fpSign_roundSingle _ (Nat.pos_of_ne_zero (mt fpMag_eq_zero.1 hzb))]

/-- A quotient has the sign of the product. -/
theorem mul_sign_neg_iff {x y : Int} (hy : y ≠ 0) : x * y.sign * 2 ^ 149 < 0 ↔ x * y < 0 := by
  rw [mul_neg_iff (a := x)]
  rcases lt_or_gt_of_ne hy with h | h
  · rw [Int.sign_eq_neg_one_of_neg h]
    omega
  · rw [Int.sign_eq_one_of_pos h]
    omega

theorem ieeeDiv_roundsTo (ha : IsFinite a) (hb : IsFinite b) (h : fpValue b ≠ 0) :
    RoundsTo (ieeeDiv a b) (fpValue a * (fpValue b).sign * 2 ^ 149) (fpValue b).natAbs := by
  have hnum : fpMag a * fpOne = (fpValue a * (fpValue b).sign * 2 ^ 149).natAbs := by
    rw [Int.natAbs_mul, Int.natAbs_mul, Int.natAbs_sign_of_ne_zero h, natAbs_fpValue, Nat.mul_one]
    rfl
  rw [ieeeDiv_of_finite ha hb (Bool.eq_false_iff.2 (mt fpValue_eq_zero.2 h)), ← natAbs_fpValue b, hnum]
  refine roundSingle_roundsTo (Int.natAbs_pos.2 h) fun hne => ?_
  have hprod : fpValue a * fpValue b ≠ 0 := mul_ne_zero (fun h0 => hne (by simp [h0])) h
  rw [fpSign_bne_eq_decide hprod, decide_eq_decide, mul_sign_neg_iff h]

end

end Sys2Proof.Machine
end

section
/-! The conversions between singles and integers (47_cp1_float.md R205, R206), and the conservative domain
(R212). -/

namespace Sys2Proof.Machine

/-! ## From integer to single -/

/-- The nearest single is the exact result where that is a single. -/
theorem RoundsTo.exact {w v : Word} {num : Int} {den : Nat} (h : RoundsTo w num den) (hw : isInf w = false)
    (hv : IsFinite v) (hnum : fpValue v * den = num) : fpValue w * den = num := by
  obtain ⟨-, -, -, hnear⟩ := h
  have hle := (hnear hw v hv).1
  rw [fpError, fpError, hnum] at hle
  omega

theorem ieeeCvtSW_roundsTo (a : Word) : RoundsTo (ieeeCvtSW a) (a.toInt * 2 ^ 149) 1 := by
  have hnum : a.toInt.natAbs * fpOne = (a.toInt * 2 ^ 149).natAbs := by
    rw [Int.natAbs_mul]
    rfl
  rw [ieeeCvtSW, hnum]
  refine roundSingle_roundsTo Nat.one_pos fun _ => ?_
  rw [decide_eq_decide]
  omega

theorem isFinite_ieeeCvtSW (a : Word) : IsFinite (ieeeCvtSW a) := by
  obtain ⟨hnan, -, hinf, -⟩ := ieeeCvtSW_roundsTo a
  refine ⟨hnan, Bool.eq_false_iff.2 (mt hinf.1 ?_)⟩
  have hlo := BitVec.le_toInt a
  have hhi := BitVec.toInt_lt (x := a)
  omega

theorem fpValue_ieeeCvtSW {a : Word} (h : a.toInt.natAbs ≤ 2 ^ 24) : fpValue (ieeeCvtSW a) = a.toInt * 2 ^ 149 := by
  obtain ⟨v, hv, hs, hm⟩ := exists_single (decide (a.toInt < 0)) h (by decide : 149 ≤ 252)
  have hval : fpValue v * (1 : Nat) = a.toInt * 2 ^ 149 := by
    rw [fpValue, hs, hm]
    by_cases hneg : a.toInt < 0
    · rw [if_pos (decide_eq_true hneg)]
      omega
    · rw [if_neg (by simpa using hneg)]
      omega
  simpa using (ieeeCvtSW_roundsTo a).exact (isFinite_ieeeCvtSW a).2 hv hval

/-! ## From single to integer -/

/-- A magnitude rounded up to a whole number. -/
def ceilMag (mag : Nat) : Nat := if mag % fpOne = 0 then mag / fpOne else mag / fpOne + 1

/-- The magnitude that a mode rounds a magnitude to, under a sign. -/
def roundMag (mode : CvtRounding) (neg : Bool) (mag : Nat) : Int :=
  match mode with
  | .nearestEven => divNearestEven mag fpOne
  | .towardZero => mag / fpOne
  | .up => if neg then mag / fpOne else ceilMag mag
  | .down => if neg then ceilMag mag else mag / fpOne

theorem roundToInt_eq (mode : CvtRounding) (a : Word) : roundToInt mode a =
    if fpSign a then -roundMag mode (fpSign a) (fpMag a) else roundMag mode (fpSign a) (fpMag a) := rfl

theorem floorMag_spec (mag : Nat) : mag / fpOne * 2 ^ 149 ≤ mag ∧ mag < mag / fpOne * 2 ^ 149 + 2 ^ 149 := by
  unfold fpOne
  omega

theorem ceilMag_spec (mag : Nat) : mag ≤ ceilMag mag * 2 ^ 149 ∧ ceilMag mag * 2 ^ 149 < mag + 2 ^ 149 := by
  unfold ceilMag fpOne
  split <;> omega

theorem divNearestEven_fpOne_spec (mag : Nat) :
    (2 * ((mag : Int) - divNearestEven mag fpOne * 2 ^ 149)).natAbs ≤ 2 ^ 149 ∧
    ((2 * ((mag : Int) - divNearestEven mag fpOne * 2 ^ 149)).natAbs = 2 ^ 149 → divNearestEven mag fpOne % 2 = 0) := by
  rw [divNearestEven_eq, fpOne]
  split <;> omega

/-- The model rounds each operand as its mode says. -/
theorem roundToInt_roundsToInt (mode : CvtRounding) (a : Word) :
    RoundsToInt mode (fpValue a) (roundToInt mode a) := by
  have hfloor := floorMag_spec (fpMag a)
  have hceil := ceilMag_spec (fpMag a)
  rw [roundToInt_eq, fpValue]
  cases mode with
  | nearestEven =>
    have hnear := divNearestEven_fpOne_spec (fpMag a)
    simp only [RoundsToInt, roundMag]
    split <;> omega
  | towardZero =>
    simp only [RoundsToInt, roundMag]
    split
    case isTrue =>
      rw [neg_mul_neg]
      exact ⟨by omega, by omega, by positivity⟩
    case isFalse => exact ⟨by omega, by omega, by positivity⟩
  | up | down =>
    simp only [RoundsToInt, roundMag]
    cases fpSign a
    case true => simp only [↓reduceIte]; omega
    case false => simp only [Bool.false_eq_true, ↓reduceIte]; omega

/-- Toward zero, a value that is not 0 keeps its sign, and the magnitude is fixed by its bounds. -/
theorem towardZero_unique {v m n : Int} (hm : RoundsToInt .towardZero v m) (hn : RoundsToInt .towardZero v n) :
    m = n := by
  obtain ⟨hmle, hmlt, hmsign⟩ := hm
  obtain ⟨hnle, hnlt, hnsign⟩ := hn
  rcases lt_trichotomy v 0 with hv | rfl | hv
  · have hm0 : m ≤ 0 := nonpos_of_mul_nonneg_left hmsign hv
    have hn0 : n ≤ 0 := nonpos_of_mul_nonneg_left hnsign hv
    omega
  · omega
  · have hm0 : 0 ≤ m := nonneg_of_mul_nonneg_left hmsign hv
    have hn0 : 0 ≤ n := nonneg_of_mul_nonneg_left hnsign hv
    omega

theorem roundsToInt_unique {mode : CvtRounding} {v m n : Int} (hm : RoundsToInt mode v m) (hn : RoundsToInt mode v n) :
    m = n := by
  cases mode with
  | nearestEven | up | down =>
    simp only [RoundsToInt] at hm hn
    omega
  | towardZero => exact towardZero_unique hm hn

/-! ## Where `cvt.w.s` has a stated result -/

section
variable {mode : CvtRounding} {a : Word}

/-- The number is in the range of a 32-bit integer. -/
abbrev FitsWord (n : Int) : Prop := -2147483648 ≤ n ∧ n ≤ 2147483647

theorem cvtWSValid_iff : cvtWSValid mode a = true ↔ IsFinite a ∧ FitsWord (roundToInt mode a) := by
  simp only [cvtWSValid, IsFinite, Bool.and_eq_true, Bool.not_eq_true', decide_eq_true_eq]

theorem ieeeCvtWS_of_fits (ha : IsFinite a) (h : FitsWord (roundToInt mode a)) :
    ieeeCvtWS mode a = BitVec.ofInt 32 (roundToInt mode a) :=
  if_pos (cvtWSValid_iff.2 ⟨ha, h⟩)

theorem ieeeCvtWS_of_not_valid (h : ¬(IsFinite a ∧ FitsWord (roundToInt mode a))) :
    ieeeCvtWS mode a = Config.cvtDraw mode a :=
  if_neg (mt cvtWSValid_iff.1 h)

end

/-! ## The conservative domain -/

theorem inConservativeDomain_eq_true {w : Word} (hn : isNaN w = false) (hs : isSubnormal w = false) :
    inConservativeDomain w = true := by
  rw [inConservativeDomain, hn, hs]
  rfl

theorem conservativeArith_of_domain (op : FpOp) {r a b : Word} (ha : inConservativeDomain a = true)
    (hb : inConservativeDomain b = true) (hr : inConservativeDomain r = true) : conservativeArith op r a b = r := by
  rw [conservativeArith, ha, hb, hr]
  rfl

theorem conservativeCvtWS_of_fits {mode : CvtRounding} {a : Word} (hd : inConservativeDomain a = true) (ha : IsFinite a)
    (h : FitsWord (roundToInt mode a)) : conservativeCvtWS mode a = BitVec.ofInt 32 (roundToInt mode a) := by
  rw [conservativeCvtWS, hd, cvtWSValid_iff.2 ⟨ha, h⟩, ← ieeeCvtWS_of_fits ha h]
  rfl

end Sys2Proof.Machine
end

section
/-! The statements of 47_cp1_float.md. -/

namespace Sys2Proof.Machine

/-- An instruction of coprocessor 1 that writes a floating-point register does so when coprocessor 1 is usable and no
operand was just loaded. -/
theorem writesF_of_usable {i : Instr} {s : State} {reads : List RegName} {fd : Reg} {v : Word}
    (hc : s.params.cp1Usable = true) (hu : NoLoadedUse s reads)
    (he : exec i s = usingCp1 s (reading s reads (setF s fd v))) : WritesF i s fd v none :=
  setF_writes (exec_of_usable hc hu he)

/-- Settles O49: for finite operands each default operation is `roundSingle` of its exact result, which rounds once. -/
theorem floatResultsRoundedOnce : Obligations.FloatResultsRoundedOnce := by
  unfold Obligations.FloatResultsRoundedOnce
  refine ⟨fun a b ha hb => ⟨ieeeSum_roundsTo ha hb, ?sub, ieeeMul_roundsTo ha hb⟩,
    fun a b ha hb h => ieeeDiv_roundsTo ha hb h, ieeeCvtSW_roundsTo⟩
  case sub =>
    rw [sub_eq_add_neg, ← fpValue_flip]
    exact ieeeSum_roundsTo ha (isFinite_flip.2 hb)

/-- Settles O45: each writes its function of `FP_NUMERICS`; the corner values are computed, and `x - x` cancels. -/
theorem floatArithmetic : Obligations.FloatArithmetic := by
  unfold Obligations.FloatArithmetic
  refine ⟨fun s fd fs ft hc hu => ?writes, by decide, by decide, by decide, by decide, by decide, by decide, by decide,
    fun a ha => ieeeSum_flip ha⟩
  case writes =>
    exact ⟨⟨rfl, writesF_of_usable hc hu rfl⟩, ⟨rfl, writesF_of_usable hc hu rfl⟩,
      ⟨rfl, writesF_of_usable hc hu rfl⟩, rfl, writesF_of_usable hc hu rfl⟩

/-- Settles O46: the word read is the word written; the two moves between the files complete as a load does. -/
theorem floatMoves : Obligations.FloatMoves := by
  unfold Obligations.FloatMoves
  intro s fd fs rt hc
  refine ⟨rfl, rfl, rfl, fun hu => ⟨writesF_of_usable hc hu rfl, ?mfc1⟩, fun hu => ?mtc1⟩
  case mfc1 => exact completeLoad_writesX (exec_of_usable hc hu rfl)
  case mtc1 => exact completeLoad_writesF (exec_of_usable hc hu rfl)

/-- Settles O47: the result is the exact integer rounded once; an integer of at most 24 bits is a single itself. -/
theorem integerToFloat : Obligations.IntegerToFloat := by
  unfold Obligations.IntegerToFloat
  refine ⟨fun s fd fs hc hu => ⟨rfl, writesF_of_usable hc hu rfl⟩, fun a => ?value, by decide, by decide, by decide,
    by decide⟩
  case value => exact ⟨isFinite_ieeeCvtSW a, ieeeCvtSW_roundsTo a, fpValue_ieeeCvtSW⟩

/-- Settles O48: the rounded integer is `roundToInt`, the only one its mode allows. -/
theorem floatToInteger : Obligations.FloatToInteger := by
  unfold Obligations.FloatToInteger
  refine ⟨fun s fd fs hc hu => ⟨rfl, writesF_of_usable hc hu rfl⟩, fun mode a ha => ?finite, fun mode a ha => ?other,
    fun mode v m n => roundsToInt_unique⟩
  case finite =>
    exact ⟨roundToInt mode a, roundToInt_roundsToInt mode a, ieeeCvtWS_of_fits ha,
      fun h => ieeeCvtWS_of_not_valid fun hv => h hv.2⟩
  case other => exact ieeeCvtWS_of_not_valid fun hv => ha hv.1

/-- Settles O50, a clause at a time from the equations of each operation by the kinds of its operands. -/
theorem floatSpecialOperands : Obligations.FloatSpecialOperands := by
  unfold Obligations.FloatSpecialOperands
  refine ⟨fun a b => ⟨fun h => ?mulSign, fun h => ?divSign, fun ha => ⟨ieeeSum_flip ha, ieeeSum_flip ha⟩,
    ieeeAdd_of_isInf, ieeeMul_of_isInf_of_not_zero, ieeeDiv_of_isInf_right, ieeeDiv_of_not_zero_of_zero,
    isNaN_ieeeSub_of_isInf, isNaN_ieeeAdd_of_isInf, fun ha hb => ?zeroTimesInf, fun ha hb => ?zeroByZero,
    fun ha hb => ?infByInf, fun h => ?nan⟩, by decide, by decide, by decide, rfl, rfl, rfl, rfl⟩
  case mulSign => exact fpSign_ieeeMul fun hi => Bool.false_ne_true (h.symm.trans (isNaN_ieeeMul_of_invalid hi))
  case divSign => exact fpSign_ieeeDiv fun hi => Bool.false_ne_true (h.symm.trans (isNaN_ieeeDiv_of_invalid hi))
  case zeroTimesInf =>
    have hinvalid : InvalidMul a b := .inr (.inr (.inr ⟨ha, hb⟩))
    exact ⟨isNaN_ieeeMul_of_invalid hinvalid, isNaN_ieeeMul_of_invalid (InvalidMul.symm hinvalid)⟩
  case zeroByZero => exact isNaN_ieeeDiv_of_invalid (.inr (.inr (.inr ⟨ha, hb⟩)))
  case infByInf => exact isNaN_ieeeDiv_of_invalid (.inr (.inr (.inl ⟨ha, hb⟩)))
  case nan =>
    exact ⟨isNaN_ieeeAdd_of_isNaN h, isNaN_ieeeSub_of_isNaN h, isNaN_ieeeMul_of_invalid (or_assoc.1 (.inl h)),
      isNaN_ieeeDiv_of_invalid (or_assoc.1 (.inl h))⟩

/-- Settles O51: inside the domain the conservative record is the default one, and a conversion has one rounded
integer. -/
theorem conservativeNumerics : Obligations.ConservativeNumerics := by
  unfold Obligations.ConservativeNumerics
  intro a b hna hsa hnb hsb
  have ha := inConservativeDomain_eq_true hna hsa
  have harith (op : FpOp) {r : Word} (hn : isNaN r = false) (hs : isSubnormal r = false) :
      conservativeArith op r a b = r :=
    conservativeArith_of_domain op ha (inConservativeDomain_eq_true hnb hsb) (inConservativeDomain_eq_true hn hs)
  refine ⟨harith .add, harith .sub, harith .mul, harith .div, fun hinf mode n hn hfits => ?convert⟩
  case convert =>
    obtain rfl := roundsToInt_unique hn (roundToInt_roundsToInt mode a)
    exact conservativeCvtWS_of_fits ha ⟨hna, hinf⟩ hfits

end Sys2Proof.Machine
end

section
/-! Inversion of the stops of a step: the fetch stops in the order of its checks, the fetched word decides what comes
next, and a step that stops with a cause found the row of that cause to hold (60_exceptions.md R221, R223, R231). -/

namespace Sys2Proof.Machine

/-! ## The opcode of a row -/

theorem opcodeOf_zero : opcodeOf 0#32 = 0#6 := by decide

/-- No bit of an unused field is a bit of the opcode. -/
theorem opcodeOf_unusedMask (i : Instr) : opcodeOf (unusedMask i) = 0#6 := by
  cases i
  all_goals simp [unusedMask, opcodeOf_zero]

theorem opcodeOf_of_selectRow {w : Word} {i : Instr} (h : selectRow w = some i) :
    opcodeOf w = opcodeOf (encode i) := by
  rw [selectRow_eq_some.1 h, opcodeOf_or, opcodeOf_and, opcodeOf_unusedMask, BitVec.and_zero, BitVec.or_zero]

/-- The three opcodes of the check are those of the instructions that use coprocessor 1 (60_exceptions.md R231). -/
theorem isCp1Opcode_encode (i : Instr) : IsCp1Opcode (encode i) ↔ usesCp1 i = true := by
  cases i
  all_goals simp [encode, usesCp1]

theorem isCp1Opcode_of_decode {strict : Bool} {w : Word} {i : Instr} (h : decode strict w = .instr i)
    (hi : usesCp1 i = true) : IsCp1Opcode w := by
  rw [IsCp1Opcode, opcodeOf_of_selectRow (decode_eq_instr.1 h).1]
  exact (isCp1Opcode_encode i).2 hi

/-! ## The last check of a fetch, and the first check of a fetched word -/

section
variable {s : State}

theorem fetchedWord_of_pc_in_text (hal : s.pc.toNat % 4 = 0) (hin : AllBytesIn s.params.memAlloc s.pc 4)
    (htext : AllBytesIn s.params.text s.pc 4) :
    fetchedWord s = (readBytes s.mem (accessAddrs s.pc 4)).map (wordOfBytes s.params.endian) := by
  rw [← aligned_iff] at hal
  rw [← allIn_iff] at hin htext
  simp [fetchedWord, hal, hin, htext]

theorem step_of_pc_without_value (hal : s.pc.toNat % 4 = 0) (hin : AllBytesIn s.params.memAlloc s.pc 4)
    (htext : AllBytesIn s.params.text s.pc 4) (hread : readBytes s.mem (accessAddrs s.pc 4) = none) :
    step s = .fault (.noValue s.pc) := by
  rw [← aligned_iff] at hal
  rw [← allIn_iff] at hin htext
  simp [step, fetchInstr, hal, hin, htext, hread]

theorem step_of_cp1_unusable {w : Word} (hw : fetchedWord s = some w) (hc : s.params.cp1Usable = false)
    (hop : IsCp1Opcode w) : step s = raise s (.coprocessorUnusable 1) := by
  rw [step, fetchInstr_of_fetchedWord hw]
  simp [decodeFetched, hc, (isCop1Word_iff w).2 hop]

theorem stops_of_usesCp1 {i : Instr} (hi : usesCp1 i = true) (hc : s.params.cp1Usable = false) :
    Stops i s (.coprocessorUnusable 1) := by
  cases i with
  | lwc1 | swc1 | addS | subS | mulS | divS | movS | cvtSW | cvtWS | mfc1 | mtc1 => exact stops_of_cp1_unusable rfl hc
  | _ => cases hi

/-! ## The inversion -/

/-- The faults with which a step can stop. -/
inductive StepStopping (s : State) : Fault → Prop where
  | raised (c : Cause) (hc : Justified s c) : StepStopping s (.stopped c (exceptionPc s) (inDelaySlot s) s)
  | noValue (a : Word) : StepStopping s (.noValue a)

theorem stepStopping_of_raise {c : Cause} {f : Fault} (hc : Justified s c) (he : step s = raise s c)
    (h : step s = .fault f) : StepStopping s f := by
  cases he.symm.trans h
  exact .raised c hc

/-- What an instruction raises in its own meaning, the step that runs it raises with the row of the cause. -/
theorem justified_of_raisedBy {i : Instr} {c : Cause} (hr : Runs s i) (hc : RaisedBy i s c) : Justified s c := by
  cases c with
  | integerOverflow => exact ⟨i, hr, hc⟩
  | syscall | breakpoint =>
    obtain rfl := hc
    exact hr
  | reservedInstruction | addressErrorFetch => exact hc.elim
  | coprocessorUnusable =>
    obtain ⟨hn, hu, hi⟩ := hc
    obtain ⟨w, hw, -, hd⟩ := hr
    exact ⟨hn, hu, w, hw, isCp1Opcode_of_decode hd hi⟩
  | addressErrorLoad | addressErrorStore =>
    obtain ⟨a, hacc⟩ := hc
    exact ⟨i, a, hr, hacc⟩
  | unallocatedAccess =>
    obtain ⟨a, hacc⟩ := hc
    exact .inr ⟨i, a, hr, hacc⟩

/-- The stops of a step at a fetched word: coprocessor usability, the decode, the instruction (30_encoding.md R102). -/
theorem stepStopping_of_fetchedWord {w : Word} {f : Fault} (hw : fetchedWord s = some w) (h : step s = .fault f) :
    StepStopping s f := by
  by_cases ha : Cp1Allows s w
  case neg =>
    obtain ⟨hu, hop⟩ := not_or.1 ha
    rw [Bool.not_eq_true] at hu
    rw [not_not] at hop
    exact stepStopping_of_raise (c := .coprocessorUnusable 1) ⟨rfl, hu, w, hw, hop⟩ (step_of_cp1_unusable hw hu hop) h
  case pos =>
    cases hd : decode s.params.strictUnused w with
    | reserved =>
      exact stepStopping_of_raise (c := .reservedInstruction w) ⟨hw, hd⟩ (step_of_reserved hw ha hd) h
    | unusedField => cases (step_of_unusedField hw ha hd).symm.trans h
    | instr i =>
      have hr : Runs s i := ⟨w, hw, ha, hd⟩
      rw [step_of_runs hr] at h
      cases exec_fault h with
      | raised c hc => exact .raised c (justified_of_raisedBy hr hc)
      | noValue => exact .noValue _

/-- The inversion of the stops of a step, in the priority of 60_exceptions.md R223. -/
theorem step_fault {f : Fault} (h : step s = .fault f) : StepStopping s f := by
  by_cases hal : s.pc.toNat % 4 = 0
  case neg => exact stepStopping_of_raise (c := .addressErrorFetch s.pc) ⟨rfl, hal⟩ (step_of_misaligned_pc hal) h
  by_cases hin : AllBytesIn s.params.memAlloc s.pc 4
  case neg =>
    exact stepStopping_of_raise (c := .unallocatedAccess s.pc) (.inl ⟨rfl, hin⟩) (step_of_unallocated_pc hal hin) h
  by_cases htext : AllBytesIn s.params.text s.pc 4
  case neg => cases (step_of_pc_outside_text hal hin htext).symm.trans h
  cases hread : readBytes s.mem (accessAddrs s.pc 4) with
  | none =>
    cases (step_of_pc_without_value hal hin htext hread).symm.trans h
    exact .noValue _
  | some bs =>
    have hw := fetchedWord_of_pc_in_text hal hin htext
    rw [hread, Option.map_some] at hw
    exact stepStopping_of_fetchedWord hw h

end

end Sys2Proof.Machine
end

section
/-! The statements of 60_exceptions.md. -/

namespace Sys2Proof.Machine

/-- Settles O53: a step stops with a cause only through `raise` at the state before it. -/
theorem stopsArePrecise : Obligations.StopsArePrecise := by
  unfold Obligations.StopsArePrecise
  intro s t c epc d h
  cases step_fault h with
  | raised =>
    rw [h]
    exact ⟨rfl, raise_stopsWith s c⟩

/-- Settles O54, from the inversion of the stops of a step. -/
theorem causesAreJustified : Obligations.CausesAreJustified := by
  unfold Obligations.CausesAreJustified
  intro s t c epc d h
  cases step_fault h with
  | raised _ hc => exact hc

/-- Settles O10: each check of the fetch is reached when those before it have passed. -/
theorem fetchStopsInOrder : Obligations.FetchStopsInOrder := by
  unfold Obligations.FetchStopsInOrder
  refine fun s => ⟨stopsWith_of_misaligned_pc rfl, unallocatedAccessRaises.2 s, step_of_pc_outside_text,
    fun hal hin htext hnone => ?_⟩
  obtain ⟨k, hk, hr⟩ := hnone
  exact step_of_pc_without_value hal hin htext (readBytes_eq_none ⟨_, (mem_accessAddrs _ _ _).2 ⟨k, hk, rfl⟩, hr⟩)

/-- Settles O11: the check precedes the decode and every check of the instruction, its cause is justified only without
coprocessor 1, and the words of the other coprocessors select no row. -/
theorem coprocessorUnusable : Obligations.CoprocessorUnusable := by
  unfold Obligations.CoprocessorUnusable
  refine ⟨fun s w hw hc hop => ?fetched, fun s i hc hi => stops_of_usesCp1 hi hc, fun s t n epc d hc h => ?never, rfl,
    fun s w hw hop => ?others⟩
  case fetched =>
    rw [step_of_cp1_unusable hw hc hop]
    exact raise_stopsWith s _
  case never =>
    obtain ⟨-, hu, -⟩ := causesAreJustified s t _ epc d h
    exact Bool.false_ne_true (hu.symm.trans hc)
  case others =>
    have hnot : ¬IsCp1Opcode w := by
      intro hcp1
      simp only [List.mem_cons, List.not_mem_nil, or_false] at hop hcp1
      rcases hop with h | h | h <;> simp [h] at hcp1
    exact reservedWordsRaise.2 s w hw (.inr hnot) (.inr (.inr (.inr (.inl hop))))

end Sys2Proof.Machine
end

section
/-! A control transfer with and without the delay slot, and the word 0 in the slot (10_state.md R31, R32,
70_reset_and_hazards.md R255). -/

namespace Sys2Proof.Machine

/-! ## The word 0 -/

section
variable {s u : State}

theorem fetchedWord_congr (hpc : u.pc = s.pc) (hmem : u.mem = s.mem) (hp : u.params = s.params) :
    fetchedWord u = fetchedWord s := by
  simp only [fetchedWord, hpc, hmem, hp]

/-- The word 0 is `sll` of register 0 into register 0 (30_encoding.md R105). -/
theorem runs_nop (hw : fetchedWord s = some 0#32) : Runs s (.sll 0 0 0) :=
  ⟨0#32, hw, .inr (by decide), decodeInvertsEncode s.params.strictUnused (.sll 0 0 0)⟩

/-- The word 0 only goes on; nothing stops it when no register was just loaded. -/
theorem step_nop (hw : fetchedWord s = some 0#32) (hld : s.ld = none) : step s = .next (nextInstr s none) := by
  have hu : NoLoadedUse s [.gpr 0] := by simp [NoLoadedUse, hld]
  exact (step_of_runs (runs_nop hw)).trans (reading_of_noUse _ hu)

end

/-! ## Transfers that do not link -/

/-- Where a transfer to `w` under the condition `c` leaves `s`. -/
def transferred (s : State) (c : Bool) (w : Word) : State := if c then branchTo s w else notTaken s

/-- A transfer that does not link: its two guards, then the choice between its target and the following instruction. -/
def plainTransfer (s : State) (reads : List RegName) (c : Bool) (w : Word) : Result :=
  transferring s (reading s reads (.next (transferred s c w)))

theorem reading_nil (s : State) (k : Result) : reading s [] k = k := reading_of_noUse k (by simp [NoLoadedUse])

theorem exec_j_eq_plainTransfer (target : Target) (s : State) :
    exec (.j target) s = plainTransfer s [] true (jumpTarget s.pc target) :=
  congrArg (transferring s) (reading_nil s _).symm

section
variable {i : Instr} {s t : State} {reads : List RegName} {c : Bool} {w : Word}

/-- What a transfer that does not link reads, tests and aims at does not depend on `BRANCH_DELAY`. -/
theorem exec_plainTransfer (hct : isControlTransfer i = true) (hjalr : ∀ rd rs, i ≠ .jalr rd rs)
    (hjal : ∀ target, i ≠ .jal target) (s : State) : ∃ reads c w, exec i s = plainTransfer s reads c w ∧
      exec i (withoutBranchDelay s) = plainTransfer (withoutBranchDelay s) reads c w := by
  cases i with
  | bltz | bgez | beq | bne | blez | bgtz => exact ⟨_, _, _, rfl, rfl⟩
  | jr rs => exact ⟨_, true, _, rfl, rfl⟩
  | j target =>
    exact ⟨_, _, _, exec_j_eq_plainTransfer target s, exec_j_eq_plainTransfer target (withoutBranchDelay s)⟩
  | jalr rd rs => exact absurd rfl (hjalr rd rs)
  | jal target => exact absurd rfl (hjal target)
  | _ => cases hct

theorem plainTransfer_eq_next :
    plainTransfer s reads c w = .next t ↔ NotInSlot s ∧ NoLoadedUse s reads ∧ transferred s c w = t := by
  constructor
  · intro h
    obtain ⟨hs, hr⟩ := transferring_next h
    obtain ⟨hu, hk⟩ := reading_next hr
    exact ⟨hs, hu, Host.Outcome.next.inj hk⟩
  · rintro ⟨hs, hu, rfl⟩
    exact (transferring_of_notInSlot _ hs).trans (reading_of_noUse _ hu)

@[simp] theorem notTaken_ld (s : State) : (notTaken s).ld = none := by simp [notTaken, nextLd_eq]

@[simp] theorem branchTo_ld (s : State) (w : Word) : (branchTo s w).ld = none := by simp [branchTo, nextLd_eq]

theorem transferred_ld : (transferred s c w).ld = none := by
  cases c <;> simp [transferred]

/-! ## The two machines side by side -/

theorem same_of_eq (hx : t.x = s.x) (hf : t.f = s.f) (hhi : t.hi = s.hi) (hlo : t.lo = s.lo) (hmem : t.mem = s.mem) :
    GprsSame s t ∧ FprsSame s t ∧ HiLoSame s t ∧ MemSame s t :=
  ⟨readX_congr hx, readF_congr hf, ⟨hhi, hlo⟩, fun a => by rw [hmem]⟩

/-- A transfer and the word 0 write no register and no memory. -/
theorem transferred_same (s : State) (c : Bool) (w : Word) :
    GprsSame (nextInstr (transferred s c w) none) (transferred (withoutBranchDelay s) c w) ∧
    FprsSame (nextInstr (transferred s c w) none) (transferred (withoutBranchDelay s) c w) ∧
    HiLoSame (nextInstr (transferred s c w) none) (transferred (withoutBranchDelay s) c w) ∧
    MemSame (nextInstr (transferred s c w) none) (transferred (withoutBranchDelay s) c w) := by
  apply same_of_eq
  all_goals cases c <;> simp [transferred, withoutBranchDelay]

variable (hb : s.params.branchDelay = true)
include hb

theorem pc_after_taken_slot (w : Word) :
    (nextInstr (branchTo s w) none).pc = (branchTo (withoutBranchDelay s) w).pc := by
  simp [nextInstr, branchTo, withoutBranchDelay, hb]

variable (hnpc : s.npc = s.pc + 4#32)
include hnpc

theorem pc_after_notTaken_slot :
    (nextInstr (notTaken s) none).pc = (nextInstr (notTaken (withoutBranchDelay s)) none).pc := by
  simp [nextInstr, notTaken, sequentialPc, withoutBranchDelay, hb, hnpc]

/-- After a branch not taken, the machine without the delay slot fetches what the slot holds. -/
theorem fetchedWord_notTaken :
    fetchedWord (notTaken (withoutBranchDelay s)) = fetchedWord (notTaken s) := by
  have hpc : (notTaken (withoutBranchDelay s)).pc = (withoutBranchDelay (notTaken s)).pc := by
    simp [notTaken, sequentialPc, withoutBranchDelay, hb, hnpc]
  calc fetchedWord (notTaken (withoutBranchDelay s))
      = fetchedWord (withoutBranchDelay (notTaken s)) :=
        fetchedWord_congr hpc (by simp [withoutBranchDelay]) (by simp [withoutBranchDelay])
    _ = fetchedWord (notTaken s) := rfl

end

end Sys2Proof.Machine
end

section
/-! The statements of 70_reset_and_hazards.md about the delay slot. -/

namespace Sys2Proof.Machine

/-- Settles O31: both machines make the same transfer; the word 0 in the slot only goes on, to the target or, after a
branch not taken, to where the word 0 takes the machine without the slot. -/
theorem delaySlotNopAgrees : Obligations.DelaySlotNopAgrees := by
  unfold Obligations.DelaySlotNopAgrees
  intro i s t hb _ hnpc hct hjalr hjal he hw
  obtain ⟨reads, c, w, hs, hs'⟩ := exec_plainTransfer hct hjalr hjal s
  obtain ⟨-, hu, rfl⟩ := plainTransfer_eq_next.1 (hs.symm.trans he)
  have hv : exec i (withoutBranchDelay s) = .next (transferred (withoutBranchDelay s) c w) :=
    hs'.trans (plainTransfer_eq_next.2 ⟨by simp [withoutBranchDelay], hu, rfl⟩)
  obtain ⟨hx, hf, hhilo, hmem⟩ := transferred_same s c w
  refine ⟨_, _, step_nop hw transferred_ld, hv, hx, hf, hhilo, hmem, ?_⟩
  cases c
  case true => exact .inl (pc_after_taken_slot hb w).symm
  case false =>
    have hstep := step_nop ((fetchedWord_notTaken hb hnpc).trans hw) (notTaken_ld _)
    refine .inr ⟨?_, _, hstep, (pc_after_notTaken_slot hb hnpc).symm, same_of_eq ?_ ?_ ?_ ?_ ?_⟩
    all_goals simp [transferred, notTaken, sequentialPc, withoutBranchDelay]

end Sys2Proof.Machine
end

section
/-! The launch state, and a word placed where the next step fetches it (70_reset_and_hazards.md R250, R252). -/

namespace Sys2Proof.Machine

/-! ## Launch -/

theorem launch_inv (p : Params) : Inv (State.launch p) where
  mem_wf := rfl
  x_zero := by simp [State.launch]
  ld_not_x0 := by simp
  ld_off := fun _ => rfl

/-- The default `ENTRY` lies in the default `TEXT`, which lies in the default `MEM_ALLOC`, the whole address space. -/
theorem launchable_default : launchable Params.default := by
  refine ⟨by decide, by decide, fun a h => ?_⟩
  simp only [inSet, Params.default, List.any_cons, List.any_nil, Bool.or_false, decide_eq_true_iff] at h ⊢
  omega

/-! ## A placed word -/

section
variable {s : State} {a : Word}

theorem allIn_coverWord (l : AddrSet) (hal : a.toNat % 4 = 0) : allIn (coverWord l a) a 4 = true := by
  unfold coverWord
  split
  next h => exact h
  next =>
    refine (allIn_iff _ _ _).2 fun k hk => ?_
    have hlt := a.isLt
    have hsum : (a + BitVec.ofNat 32 k).toNat = a.toNat + k := by
      rw [BitVec.toNat_add, BitVec.toNat_ofNat]
      omega
    simp [inSet, hsum, hk]

theorem wordOfBytes_splitBytes (e : Endian) (w : Word) : wordOfBytes e (splitBytes e 4 w.toNat) = w := by
  have hlt : w.toNat % 256 ^ 4 = w.toNat := Nat.mod_eq_of_lt w.isLt
  rw [wordOfBytes, joinBytes_splitBytes, hlt, BitVec.ofNat_toNat, BitVec.setWidth_eq]

/-- The next step fetches the placed word (20_memory.md R55). -/
theorem fetchedWord_placeWord (hal : s.pc.toNat % 4 = 0) (w : Word) : fetchedWord (placeWord s w) = some w := by
  have hread : readBytes (placeWord s w).mem (accessAddrs s.pc 4) = some (splitBytes s.params.endian 4 w.toNat) :=
    readBytes_writeBytes _ _ _ (accessAddrs_nodup _ _ (by decide)) (by rw [accessAddrs_length, splitBytes_length])
  calc fetchedWord (placeWord s w)
      = (readBytes (placeWord s w).mem (accessAddrs s.pc 4)).map (wordOfBytes s.params.endian) :=
        fetchedWord_of_pc_in_text hal ((allIn_iff _ _ _).1 (allIn_coverWord _ hal))
          ((allIn_iff _ _ _).1 (allIn_coverWord _ hal))
    _ = some w := by rw [hread, Option.map_some, wordOfBytes_splitBytes]

theorem runs_placeWord {i : Instr} (hal : s.pc.toNat % 4 = 0) (hc : s.params.cp1Usable = true ∨ usesCp1 i = false) :
    Runs (placeWord s (encode i)) i := by
  have hnot : usesCp1 i = false → ¬IsCp1Opcode (encode i) := fun hi hop =>
    Bool.false_ne_true (hi.symm.trans ((isCp1Opcode_encode i).1 hop))
  exact ⟨encode i, fetchedWord_placeWord hal _, hc.imp id hnot, decodeInvertsEncode _ i⟩

theorem withFetchWord_toNat (s : State) (w : Word) : s.withFetchWord 32 w.toNat = placeWord s w := by
  have hmod : w.toNat % 2 ^ min 32 32 = w.toNat := Nat.mod_eq_of_lt w.isLt
  rw [State.withFetchWord, hmod, BitVec.ofNat_toNat, BitVec.setWidth_eq]

end

end Sys2Proof.Machine
end

section
/-! The statements of 70_reset_and_hazards.md about the launch. -/

namespace Sys2Proof.Machine

/-- Settles O12: the placed word is in both sets and holds its value, and it decodes to its instruction. -/
theorem placedWordRunsNext : Obligations.PlacedWordRunsNext := by
  unfold Obligations.PlacedWordRunsNext
  intro s i hal hc
  rw [withFetchWord_toNat]
  exact ⟨step_of_runs (runs_placeWord hal hc), fun _ => rfl, fun _ => rfl, ⟨rfl, rfl⟩, rfl⟩

/-- Settles O58, for the launch of any parameters and for the default ones. -/
theorem invariantAtLaunch : Obligations.InvariantAtLaunch := by
  unfold Obligations.InvariantAtLaunch
  exact ⟨launch_inv, launch_inv Params.default, launchable_default⟩

/-- Settles O60: the fields of the launch state. -/
theorem launchState : Obligations.LaunchState := by
  unfold Obligations.LaunchState
  exact fun p => ⟨rfl, rfl, rfl, rfl, fun _ => rfl, rfl, rfl⟩

end Sys2Proof.Machine
end

section
/-! The load delay: every instruction is its guards and then an act that does not look at `ld`, so a machine with
`LOAD_DELAY` and one without it act alike where no register just loaded is read (70_reset_and_hazards.md R256). -/

namespace Sys2Proof.Machine

/-! ## The machine without the load delay -/

section
variable (s : State)

theorem writeX_withoutLoadDelay (r : Reg) (v : Word) :
    writeX (withoutLoadDelay s) r v = withoutLoadDelay (writeX s r v) := by
  unfold writeX
  split <;> rfl

theorem movePc_withoutLoadDelay (n : Word) (b : Bool) (l : Option RegName) :
    movePc (withoutLoadDelay s) n b l = withoutLoadDelay (movePc s n b l) := by
  cases hb : s.params.branchDelay <;> simp [movePc, nextLd, withoutLoadDelay, hb]

end

@[simp] theorem withoutLoadDelay_mem (s : State) : (withoutLoadDelay s).mem = s.mem := rfl
@[simp] theorem withoutLoadDelay_memAlloc (s : State) : (withoutLoadDelay s).params.memAlloc = s.params.memAlloc := rfl
@[simp] theorem withoutLoadDelay_text (s : State) : (withoutLoadDelay s).params.text = s.params.text := rfl
@[simp] theorem withoutLoadDelay_endian (s : State) : (withoutLoadDelay s).params.endian = s.params.endian := rfl
@[simp] theorem withoutLoadDelay_pc (s : State) : (withoutLoadDelay s).pc = s.pc := rfl
@[simp] theorem withoutLoadDelay_strictUnused (s : State) :
    (withoutLoadDelay s).params.strictUnused = s.params.strictUnused := rfl
@[simp] theorem withoutLoadDelay_cp1Usable (s : State) :
    (withoutLoadDelay s).params.cp1Usable = s.params.cp1Usable := rfl
@[simp] theorem inDelaySlot_withoutLoadDelay (s : State) : inDelaySlot (withoutLoadDelay s) = inDelaySlot s := rfl

/-- The outcome with the load delay taken out of its state. -/
def eraseLoadDelay : Result → Result
  | .next t => .next (withoutLoadDelay t)
  | .fault (.stopped c epc d t) => .fault (.stopped c epc d (withoutLoadDelay t))
  | .fault (.noValue a) => .fault (.noValue a)
  | .refused r => .refused r

/-- The outcome is no refusal of a register just loaded. -/
def AcceptsUse (o : Result) : Prop := ∀ r, o ≠ .refused (.useOfLoadedRegister r)

/-! ## What an instruction does behind its guards -/

/-- The act of an instruction that loads `loaded`, at `s` (`k`) and at the machine without the load delay (`k'`). -/
structure ActsAlike (s : State) (loaded : Option RegName) (k k' : Result) : Prop where
  erased : k' = eraseLoadDelay k
  accepts : AcceptsUse k
  ld : ∀ t, k = .next t → LdIs s t loaded

section
variable {s u : State} {l : Option RegName}

theorem actsAlike_raise (c : Cause) : ActsAlike s l (raise s c) (raise (withoutLoadDelay s) c) where
  erased := rfl
  accepts := by simp [AcceptsUse, raise]
  ld := fun t h => absurd h (raise_ne_next s t c)

/-- `ld` after a completion names the register given to `movePc`, unless that is register 0. -/
theorem actsAlike_movePc {m : Option RegName} (n : Word) (b : Bool) (hp : u.params = s.params)
    (hl : l = if m = some (.gpr 0#5) then none else m) :
    ActsAlike s l (.next (movePc u n b m)) (.next (movePc (withoutLoadDelay u) n b m)) where
  erased := congrArg Host.Outcome.next (movePc_withoutLoadDelay u n b m)
  accepts := by simp [AcceptsUse]
  ld := by
    rintro t ⟨⟩
    simp [LdIs, nextLd_eq, hp, hl]

theorem actsAlike_setX (rd : Reg) (v : Word) : ActsAlike s none (setX s rd v) (setX (withoutLoadDelay s) rd v) := by
  rw [setX, setX, writeX_withoutLoadDelay]
  exact actsAlike_movePc _ _ (by simp) rfl

theorem actsAlike_loadedX (rt : Reg) (v : Word) :
    ActsAlike s (if rt = 0#5 then none else some (.gpr rt)) (completeLoad (writeX s rt v) (.gpr rt))
      (completeLoad (writeX (withoutLoadDelay s) rt v) (.gpr rt)) := by
  rw [writeX_withoutLoadDelay]
  exact actsAlike_movePc _ _ (by simp) (by simp)

theorem actsAlike_loadedF (ft : Reg) (v : Word) :
    ActsAlike s (some (.fpr ft)) (completeLoad (writeF s ft v) (.fpr ft))
      (completeLoad (writeF (withoutLoadDelay s) ft v) (.fpr ft)) :=
  actsAlike_movePc (u := writeF s ft v) _ _ rfl rfl

theorem actsAlike_setF (fd : Reg) (v : Word) : ActsAlike s none (setF s fd v) (setF (withoutLoadDelay s) fd v) :=
  actsAlike_movePc (u := writeF s fd v) _ _ rfl rfl

theorem actsAlike_setHiLo (a b : Word) : ActsAlike s none (setHiLo s a b) (setHiLo (withoutLoadDelay s) a b) :=
  actsAlike_movePc (u := writeHiLo s a b) _ _ rfl rfl

theorem actsAlike_link (rd : Reg) (w : Word) :
    ActsAlike s none (.next (branchTo (writeX s rd (linkAddr s)) w))
      (.next (branchTo (writeX (withoutLoadDelay s) rd (linkAddr (withoutLoadDelay s))) w)) := by
  rw [writeX_withoutLoadDelay]
  exact actsAlike_movePc _ _ (by simp) rfl

/-- A check that does not look at the load delay. -/
theorem actsAlike_ite {k k' m m' : Result} {c : Bool} (hk : ActsAlike s l k k') (hm : ActsAlike s l m m') :
    ActsAlike s l (if c then k else m) (if c then k' else m') := by
  cases c
  case false => exact hm
  case true => exact hk

theorem actsAlike_load (ea : Word) (n : Nat) {k k' : Nat → Result} (h : ∀ v, ActsAlike s l (k v) (k' v)) :
    ActsAlike s l (load s ea n k) (load (withoutLoadDelay s) ea n k') := by
  refine actsAlike_ite (actsAlike_ite ?_ (actsAlike_raise _)) (actsAlike_raise _)
  rw [withoutLoadDelay_mem]
  cases readBytes s.mem (accessAddrs ea n) with
  | none => exact ⟨rfl, by simp [AcceptsUse], by simp⟩
  | some bs => exact h _

theorem actsAlike_loadX (rt : Reg) (ea : Word) (n : Nat) (ext : Nat → Nat → Word) :
    ActsAlike s (if rt = 0#5 then none else some (.gpr rt)) (loadX s rt ea n ext)
      (loadX (withoutLoadDelay s) rt ea n ext) :=
  actsAlike_load ea n fun _ => actsAlike_loadedX rt _

theorem actsAlike_store (ea : Word) (n : Nat) (v : Word) :
    ActsAlike s none (store s ea n v) (store (withoutLoadDelay s) ea n v) := by
  refine actsAlike_ite (actsAlike_ite (actsAlike_ite ?_ ?_) (actsAlike_raise _)) (actsAlike_raise _)
  · exact ⟨rfl, by simp [AcceptsUse], by simp⟩
  · exact actsAlike_movePc (u := storeBytes s ea n v) _ _ rfl rfl

end

/-! ## The guards -/

/-- The guards of an instruction in the order the model checks them (log 17), then its act `k`. -/
def guarded (i : Instr) (s : State) (k : Result) : Result :=
  if usesCp1 i && !s.params.cp1Usable then raise s (.coprocessorUnusable 1)
  else if isControlTransfer i && inDelaySlot s then .refused .controlTransferInDelaySlot
  else reading s (sources i) k

section
variable {i : Instr} {s : State} {k k' : Result} {r : RegName}

theorem guarded_of_usesCp1 (hi : usesCp1 i = true) (hct : isControlTransfer i = false) :
    guarded i s k = usingCp1 s (reading s (sources i) k) := by
  cases hc : s.params.cp1Usable <;> simp [guarded, usingCp1, hi, hct, hc]

theorem guarded_of_no_operand (hi : usesCp1 i = false) (hct : isControlTransfer i = false) (hs : sources i = []) :
    guarded i s k = k := by
  simp [guarded, hi, hct, hs, reading_nil]

theorem guarded_of_region_jump (hi : usesCp1 i = false) (hct : isControlTransfer i = true) (hs : sources i = []) :
    guarded i s k = transferring s k := by
  simp [guarded, transferring, hi, hct, hs, reading_nil]

theorem guarded_of_passed (hct : isControlTransfer i = true → NotInSlot s)
    (hcp1 : usesCp1 i = true → s.params.cp1Usable = true) : guarded i s k = reading s (sources i) k := by
  have h1 : (usesCp1 i && !s.params.cp1Usable) = false := by
    cases hi : usesCp1 i <;> simp [hcp1, hi]
  have h2 : (isControlTransfer i && inDelaySlot s) = false := by
    cases hi : isControlTransfer i
    case false => rfl
    case true => exact inDelaySlot_eq_false.2 (hct hi)
  simp [guarded, h1, h2]

/-- All that the guards can do: stop at coprocessor 1, refuse a delay slot, or go on to the registers read. -/
theorem guarded_cases (i : Instr) (s : State) (k : Result) :
    guarded i s k = raise s (.coprocessorUnusable 1) ∨ guarded i s k = .refused .controlTransferInDelaySlot ∨
      guarded i s k = reading s (sources i) k := by
  unfold guarded
  split
  next => exact .inl rfl
  next =>
    split
    next => exact .inr (.inl rfl)
    next => exact .inr (.inr rfl)

/-- The instruction is its guards and then an act that does not look at the load delay. -/
def ActsBehindGuards (i : Instr) (s : State) : Prop := ∃ k k', exec i s = guarded i s k ∧
  exec i (withoutLoadDelay s) = guarded i (withoutLoadDelay s) k' ∧ ActsAlike s (loadedBy i) k k'

theorem actsBehindGuards_of_usesCp1 (hi : usesCp1 i = true) (hct : isControlTransfer i = false)
    (he : exec i s = usingCp1 s (reading s (sources i) k))
    (he' : exec i (withoutLoadDelay s) = usingCp1 (withoutLoadDelay s) (reading (withoutLoadDelay s) (sources i) k'))
    (h : ActsAlike s (loadedBy i) k k') : ActsBehindGuards i s :=
  ⟨k, k', he.trans (guarded_of_usesCp1 hi hct).symm, he'.trans (guarded_of_usesCp1 hi hct).symm, h⟩

theorem actsBehindGuards_of_no_operand (hi : usesCp1 i = false) (hct : isControlTransfer i = false)
    (hs : sources i = []) (he : exec i s = k) (he' : exec i (withoutLoadDelay s) = k')
    (h : ActsAlike s (loadedBy i) k k') : ActsBehindGuards i s :=
  ⟨k, k', he.trans (guarded_of_no_operand hi hct hs).symm, he'.trans (guarded_of_no_operand hi hct hs).symm, h⟩

theorem actsBehindGuards_of_region_jump (hi : usesCp1 i = false) (hct : isControlTransfer i = true)
    (hs : sources i = []) (he : exec i s = transferring s k)
    (he' : exec i (withoutLoadDelay s) = transferring (withoutLoadDelay s) k')
    (h : ActsAlike s (loadedBy i) k k') : ActsBehindGuards i s :=
  ⟨k, k', he.trans (guarded_of_region_jump hi hct hs).symm, he'.trans (guarded_of_region_jump hi hct hs).symm, h⟩

/-- What every instruction reads, checks and loads, in one walk over the arms of `exec`. -/
theorem exec_actsBehindGuards (i : Instr) (s : State) : ActsBehindGuards i s := by
  cases i with
  | sll | srl | sra | sllv | srlv | srav | addu | subu | and | or | xor | nor | slt | sltu | addiu | slti | sltiu
  | andi | ori | xori => exact ⟨_, _, rfl, rfl, actsAlike_setX _ _⟩
  | lui | mfhi | mflo => exact actsBehindGuards_of_no_operand rfl rfl rfl rfl rfl (actsAlike_setX _ _)
  | add | sub | addi => exact ⟨_, _, rfl, rfl, actsAlike_ite (actsAlike_raise _) (actsAlike_setX _ _)⟩
  | mthi | mtlo | mult | multu | div | divu => exact ⟨_, _, rfl, rfl, actsAlike_setHiLo _ _⟩
  | lb | lh | lw | lbu | lhu => exact ⟨_, _, rfl, rfl, actsAlike_loadX _ _ _ _⟩
  | sb | sh | sw => exact ⟨_, _, rfl, rfl, actsAlike_store _ _ _⟩
  | bltz | bgez | beq | bne | blez | bgtz =>
    refine ⟨_, _, rfl, rfl, ?_⟩
    rw [apply_ite Host.Outcome.next, apply_ite Host.Outcome.next]
    exact actsAlike_ite (actsAlike_movePc _ _ rfl rfl) (actsAlike_movePc _ _ rfl rfl)
  | jr => exact ⟨_, _, rfl, rfl, actsAlike_movePc _ _ rfl rfl⟩
  | jalr => exact ⟨_, _, rfl, rfl, actsAlike_link _ _⟩
  | j => exact actsBehindGuards_of_region_jump rfl rfl rfl rfl rfl (actsAlike_movePc _ _ rfl rfl)
  | jal => exact actsBehindGuards_of_region_jump rfl rfl rfl rfl rfl (actsAlike_link _ _)
  | lwc1 => exact actsBehindGuards_of_usesCp1 rfl rfl rfl rfl (actsAlike_load _ _ fun _ => actsAlike_loadedF _ _)
  | swc1 => exact actsBehindGuards_of_usesCp1 rfl rfl rfl rfl (actsAlike_store _ _ _)
  | addS | subS | mulS | divS | movS | cvtSW | cvtWS =>
    exact actsBehindGuards_of_usesCp1 rfl rfl rfl rfl (actsAlike_setF _ _)
  | mfc1 => exact actsBehindGuards_of_usesCp1 rfl rfl rfl rfl (actsAlike_loadedX _ _)
  | mtc1 => exact actsBehindGuards_of_usesCp1 rfl rfl rfl rfl (actsAlike_loadedF _ _)
  | syscall | breakpoint => exact actsBehindGuards_of_no_operand rfl rfl rfl rfl rfl (actsAlike_raise _)

/-! ## What the guards let through -/

theorem reading_of_use {reads : List RegName} (hd : s.params.loadDelay = true) (hld : s.ld = some r)
    (hr : r ∈ reads) : reading s reads k = .refused (.useOfLoadedRegister r) := by
  rcases reading_cases s reads k with ⟨hn, -⟩ | ⟨q, -, -, hq, e⟩
  · exact absurd hld (hn hd r hr)
  · obtain rfl : r = q := Option.some.inj (hld.symm.trans hq)
    exact e

theorem use_of_reading_refused {reads : List RegName} (hk : AcceptsUse k)
    (h : reading s reads k = .refused (.useOfLoadedRegister r)) :
    s.params.loadDelay = true ∧ s.ld = some r ∧ r ∈ reads := by
  rcases reading_cases s reads k with ⟨-, e⟩ | ⟨q, hq, hd, hld, e⟩
  · exact absurd (e.symm.trans h) (hk r)
  · cases e.symm.trans h
    exact ⟨hd, hld, hq⟩

theorem use_of_guarded_refused (hk : AcceptsUse k) (h : guarded i s k = .refused (.useOfLoadedRegister r)) :
    s.params.loadDelay = true ∧ s.ld = some r ∧ r ∈ sources i := by
  rcases guarded_cases i s k with e | e | e
  · cases e.symm.trans h
  · cases e.symm.trans h
  · exact use_of_reading_refused hk (e.symm.trans h)

theorem guarded_next {t : State} (h : guarded i s k = .next t) : k = .next t := by
  rcases guarded_cases i s k with e | e | e
  · cases e.symm.trans h
  · cases e.symm.trans h
  · exact (reading_next (e.symm.trans h)).2

theorem reading_erase {reads : List RegName} (h : AcceptsUse (reading s reads k)) :
    reading (withoutLoadDelay s) reads (eraseLoadDelay k) = eraseLoadDelay (reading s reads k) := by
  have hoff : reading (withoutLoadDelay s) reads (eraseLoadDelay k) = eraseLoadDelay k :=
    reading_of_noUse _ (by simp [NoLoadedUse, withoutLoadDelay])
  rcases reading_cases s reads k with ⟨-, e⟩ | ⟨r, -, -, -, e⟩
  · rw [hoff, e]
  · exact absurd e (h r)

theorem guarded_erase (h : AcceptsUse (guarded i s k)) :
    guarded i (withoutLoadDelay s) (eraseLoadDelay k) = eraseLoadDelay (guarded i s k) := by
  unfold guarded at h ⊢
  rw [withoutLoadDelay_cp1Usable, inDelaySlot_withoutLoadDelay]
  split
  next => rfl
  next hc1 =>
    rw [if_neg hc1] at h
    split
    next => rfl
    next hc2 =>
      rw [if_neg hc2] at h
      exact reading_erase h

/-! ## Instructions and steps -/

theorem exec_withoutLoadDelay (h : AcceptsUse (exec i s)) :
    exec i (withoutLoadDelay s) = eraseLoadDelay (exec i s) := by
  obtain ⟨k, k', hk, hk', hacts⟩ := exec_actsBehindGuards i s
  rw [hk] at h
  rw [hk, hk', hacts.erased, guarded_erase h]

/-- What fetch and decode give, with the load delay taken out of a stop. -/
def eraseFetched : Fetched → Fetched
  | .run i => .run i
  | .stop o => .stop (eraseLoadDelay o)

theorem decodeFetched_withoutLoadDelay (s : State) (w : Word) :
    decodeFetched (withoutLoadDelay s) w = eraseFetched (decodeFetched s w) := by
  unfold decodeFetched
  rw [withoutLoadDelay_cp1Usable, withoutLoadDelay_strictUnused, apply_ite eraseFetched]
  cases decode s.params.strictUnused w <;> rfl

/-- No check of the fetch looks at the load delay. -/
theorem fetchInstr_withoutLoadDelay (s : State) : fetchInstr (withoutLoadDelay s) = eraseFetched (fetchInstr s) := by
  unfold fetchInstr
  simp only [withoutLoadDelay_pc, withoutLoadDelay_mem, withoutLoadDelay_memAlloc, withoutLoadDelay_text,
    withoutLoadDelay_endian, apply_ite eraseFetched]
  cases readBytes s.mem (accessAddrs s.pc 4) with
  | none => rfl
  | some bs =>
    dsimp only
    rw [decodeFetched_withoutLoadDelay]
    rfl

/-- A step that does not refuse a register just loaded does the same without the load delay. -/
theorem step_withoutLoadDelay {o : Result} (ho : AcceptsUse o) (h : step s = o) :
    step (withoutLoadDelay s) = eraseLoadDelay o := by
  subst h
  unfold step at ho ⊢
  rw [fetchInstr_withoutLoadDelay]
  cases hf : fetchInstr s with
  | stop o => rfl
  | run i =>
    rw [hf] at ho
    exact exec_withoutLoadDelay ho

end

end Sys2Proof.Machine
end

section
/-! The statement of 70_reset_and_hazards.md about the load delay. -/

namespace Sys2Proof.Machine

/-- Settles O55: the act behind the guards leaves in `ld` what the instruction loads, the last guard is the one that
refuses a register just loaded, and what is not refused so does not look at `ld`. -/
theorem loadDelay : Obligations.LoadDelay := by
  unfold Obligations.LoadDelay
  refine ⟨fun i s t he => ?sets, fun i s r hd hld hr hct hcp1 => ?refuses, fun i s r he => ?onlyThen,
    fun _ _ _ => step_withoutLoadDelay (by simp [AcceptsUse]),
    fun _ _ _ _ _ _ => step_withoutLoadDelay (by simp [AcceptsUse])⟩
  case sets =>
    obtain ⟨k, k', hk, -, hacts⟩ := exec_actsBehindGuards i s
    exact hacts.ld t (guarded_next (hk.symm.trans he))
  case refuses =>
    obtain ⟨k, k', hk, -, -⟩ := exec_actsBehindGuards i s
    exact hk.trans ((guarded_of_passed hct hcp1).trans (reading_of_use hd hld hr))
  case onlyThen =>
    obtain ⟨k, k', hk, -, hacts⟩ := exec_actsBehindGuards i s
    exact use_of_guarded_refused hacts.accepts (hk.symm.trans he)

end Sys2Proof.Machine
end
